-- ==== Sys2Proof/Word.lean ====
section
/-! DEFINITION. The word types of the hub (00 R8) and the sparse table that registers and memories are kept in. -/
namespace Sys2Proof

/-- A byte of a memory, a link frame or an image. -/
abbrev Byte := BitVec 8

/-- A word is 16 bits (00 R8, 01 R45): every register, every sample store word. -/
abbrev Word := BitVec 16

/-- A 32-bit keeper register, address or instruction (08 R339). -/
abbrev W32 := BitVec 32

/-- A bitmap of twelve words, one bit per sensing pair (02 R107). -/
abbrev PairMap := BitVec 192

/-- Sparse data by number: strictly rising numbers, no entry equal to what an unlisted number reads as. -/
abbrev Tab (α : Type) := List (Nat × α)

end Sys2Proof
end

