-- ==== Sys2Proof/Syntax.lean ====
section
/-! DEFINITION. The commands of the block: one constructor per row of the table, with the row's operands. -/
namespace Sys2Proof

/-- Who reads or writes a register: each keeper, each link and the loader keep captures of their own (00 R26). -/
inductive Req where
  | keeper (k : Fin 4)
  | chain
  | twire
  | loader
  deriving DecidableEq, Repr

/-- A source of the interrupt controller: shared, or private to a keeper (08 R361). -/
inductive KicSrc where
  | shared (s : Fin 256)
  | priv (k : Fin 4) (p : Fin 32)
  deriving DecidableEq, Repr

/-- A word of pending bits: KIC_SPENDw or KIC_Kn_PPENDw (08 R382, R383). -/
inductive KicPendWord where
  | shared (w : Fin 16)
  | priv (k : Fin 4) (w : Fin 2)
  deriving DecidableEq, Repr

/-- What the front end measures at a swap instant (02 R83, R106; 09 R407, R410). -/
structure SwapIn where
  /-- mean excitation current of each pair over the ended window, in µA, by pair number -/
  current : List Nat
  /-- AVDD_EX in mV -/
  vex : Nat
  /-- the level of each hold line ball: 1 reads high -/
  ilHigh : BitVec 32
  /-- RATIO_REF in mV -/
  ratioRef : Nat
  deriving DecidableEq, Repr

/-- What the hub measures at a 1 ms tick (09 R412, 12 R523, 16 R664). -/
structure TickIn where
  /-- mean current of each loop over the past tick, in µA -/
  loop : List Nat
  /-- the HOLDUP ball in mV -/
  holdup : Nat
  /-- junction temperature in units of 0.125 °C, two's complement -/
  tj : Word
  deriving DecidableEq, Repr

/-- A request at an arbiter: 1-16 consecutive words of one page (05 R221), with the words of a write. What the requester
will do is part of it: the wait cycles that it inserts before each word (05 R222), none where the list ends, and after how
many cycles it drops a request that has not been granted (05 R226, R236), never where it is `none`. -/
structure ArbRequest where
  page : Fin 8192
  start : Fin 2048
  len : Nat
  write : Bool
  data : List Word
  waits : List Nat := []
  stay : Option Nat := none
  deriving DecidableEq, Repr

/-- The header of a chain request (10 R432). The CRC is valid: a frame with a bad one is BC_FRAME_DISCARD. -/
structure BcHdr where
  dest : Byte
  src : Byte
  seq : Word
  deriving DecidableEq, Repr

/-- Why the hub discards a chain frame (10 R434). -/
inductive FrameErr where
  | stopBit
  | idle
  | len
  | crc
  deriving DecidableEq, Repr

/-- How an EEPROM transaction fails (12 R499-R501). -/
inductive EepErr where
  | noack
  | busStuck
  deriving DecidableEq, Repr

/-- How a refetch of an image RAM word ends (04 R206, R207): the word reads clean after it, its read failed, or the word
is still poisoned after it. -/
inductive RefetchEnd where
  | clean
  | failed (e : EepErr)
  | poisoned
  deriving DecidableEq, Repr

/-- The byte that the two-wire port does not acknowledge, or the early repeated start (11 R477, R485); `len` counts the
argument bytes received. -/
inductive TwProto where
  | unknownCmd (cmd : Byte)
  | badCount (cmd : Byte) (count : Byte)
  | extraByte (cmd : Byte) (len : Nat)
  | shortArgs (cmd : Byte) (args : List Byte)
  deriving DecidableEq, Repr

/-- Outcome of boot BIST (14 R570, R573): the first failing test, and the keeper address of the word. -/
inductive BootBist where
  | pass
  | imageRam (addr : Nat)
  | workingRam (addr : Nat)
  | chain
  deriving DecidableEq, Repr

/-- A read of a slot that fails at start-up (12 R515, R518): the number of the 256-byte read, 0 for the header's. -/
structure ReadFail where
  read : Fin 768
  err : EepErr
  deriving DecidableEq, Repr

/-- What the debug module has done before it resumes a keeper (14 R607): bytes that it wrote in working RAM, by offset, and
the pc that it set. -/
structure DebugIn where
  wram : List (Nat × Byte)
  pc : Option (BitVec 32)
  deriving DecidableEq, Repr

/-- What the start-up sequence meets outside the hub: boot BIST's outcome and duration in BUS_CLK cycles (12 R518),
failures of the EEPROM reads of each slot (12 R515), the cycles that failing header reads took beyond the others and that
the reads of a slot whose later reads fail took, and the rows that the fuse repairs replaced, as bank × 2048 + row (14 R583). -/
structure StartIn where
  bist : BootBist
  bistCycles : Nat
  readA : Option ReadFail
  readB : Option ReadFail
  lostCycles : Nat
  fused : List Nat
  deriving DecidableEq, Repr

/-- Why a POR is performed (13 R559, R566). -/
inductive PorCause where
  | supplies
  | rootLoss
  | pllLoss
  deriving DecidableEq, Repr

/-- The strap balls (10 R430, 11 R465, 13 R535). -/
structure Straps where
  bcId : BitVec 5
  twA : BitVec 4
  xsel : Bool
  deriving DecidableEq, Repr

/-- The commands, in the table's order. -/
inductive Instr where
  | registerWrite (r : Req) (addr : W32) (v : Word)
  | wideValueLowRead (r : Req) (addr : W32)
  | wideValueHighWrite (r : Req) (addr : W32) (v : Word)
  | keeperInstruction (k : Fin 4)
  | keeperInterruptTaken (k : Fin 4)
  | keeperMret (k : Fin 4)
  | keeperFence (k : Fin 4)
  | keeperWfi (k : Fin 4)
  | storeBufferDrain (k : Fin 4)
  | trapDone (k : Fin 4)
  | keeperRelease (k : Fin 4) (target : Fin 4)
  | keeperResetCmd (k : Fin 4) (target : Fin 4)
  | keeperAloneReset (k : Fin 4) (left : Nat)
  | mtimecmpMatch (k : Fin 4)
  | doorbell (k : Fin 4) (ring : BitVec 4)
  | semRead (k : Fin 4) (n : Fin 16)
  | semWrite (k : Fin 4) (n : Fin 16) (v : Word)
  | wdtKick (k : Fin 4) (v : Word)
  | wdtCfgWrite (k : Fin 4) (v : Word)
  | wdtWarn (k : Fin 4)
  | wdtExpiry (k : Fin 4)
  | kicSourceInput (src : KicSrc) (level : Bool)
  | kicPendingWrite (r : Req) (w : KicPendWord) (v : Word)
  | kicClaim (k : Fin 4) (bank : Fin 4)
  | kicClaimStallEnd (bank : Fin 4)
  | kicComplete (k : Fin 4) (bank : Fin 4) (id : BitVec 10)
  | kicFreeze (k : Fin 4) (on : Bool)
  | freezeTmo (k : Fin 4)
  | watchEvent (w : Fin 16)
  | swapInstant (m : SwapIn)
  | pairStateDecision (p : Fin 192)
  | holdLineMismatch (line : Fin 32)
  | modulatorOverload (p : Fin 192)
  | feCtrlWrite (r : Req) (v : Word)
  | fePairEnWrite (r : Req) (w : Fin 12) (v : Word)
  | feDchWrite (r : Req) (neg : Bool) (w : Fin 12) (v : Word)
  | cicOutput (bits : List (BitVec 64))
  | coarseDelivery
  | presetOutput (mode : Fin 6)
  | touchstoneOutput (slow : Bool)
  | finalSampleDelivery
  | dcGo (r : Req) (w : Fin 12) (v : Word)
  | dcChangeStart (p : Fin 192)
  | dcNextWrite (r : Req) (p : Fin 192) (v : Word)
  | dcRestart (r : Req) (w : Fin 12) (v : Word)
  | chainRestart (p : Fin 192)
  | streamRecordWrite (stream : Fin 256)
  | ssDStatRead (k : Fin 4)
  | ssDTailWrite (r : Req) (v : W32)
  | ssDHeadWrite (r : Req) (v : W32)
  | ssPcoarseWrite (r : Req) (coarse : Bool) (p : Fin 192) (v : Word)
  | armStream (r : Req) (v : Word)
  | armCheckEnd (stream : Fin 256)
  | disarmStream (r : Req) (v : Word)
  | ssLeaseAcquire (k : Fin 4)
  | ssLeaseRelease (k : Fin 4)
  | ssLeaseExpiry
  | ssAlloc (k : Fin 4) (v : Word)
  | ssAllocResult (k : Fin 4)
  | ssFree (k : Fin 4) (v : Word)
  | ssRetire (r : Req) (v : Word)
  | ssElogClr (r : Req) (v : Word)
  | imageScrubRead
  | ssIscrubWrite (r : Req) (v : Word)
  | imageRefetch (o : RefetchEnd)
  | scrubRead (g : Fin 4)
  | scrubLapEnd
  | ssScrubCtrlWrite (r : Req) (v : Word)
  | arbiterRequest (g : Fin 4) (port : Fin 12) (q : ArbRequest)
  | arbiterGrant (g : Fin 4)
  | grantWithdrawn (g : Fin 4)
  | burstComplete (g : Fin 4)
  | burstResume (g : Fin 4)
  | holdCutoff (g : Fin 4) (moved : Nat)
  | requestRefused (g : Fin 4) (port : Fin 12)
  | hintRerequest (g : Fin 4) (port : Fin 12)
  | arbBlockClear (r : Req) (v : Word)
  | settlingEnd (pod : Fin 32)
  | impulseEnd (pod : Fin 32)
  | blockedEnd (pod : Fin 32)
  | long (pod : Fin 32)
  | stepsEnd (pod : Fin 32)
  | fall (pod : Fin 32)
  | tip (pod : Fin 32)
  | tipClear (pod : Fin 32)
  | refcap (r : Req) (pod : Fin 32) (v : Word)
  | rcCfgWrite (r : Req) (pod : Fin 32) (v : Word)
  | recognizerEventDrain
  | recordFetch
  | charmTimerExpiry
  | activationStart (lane : Fin 2)
  | stepLimit (lane : Fin 2)
  | halt (lane : Fin 2)
  | li (lane : Fin 2)
  | mov (lane : Fin 2)
  | add (lane : Fin 2)
  | sub (lane : Fin 2)
  | addi (lane : Fin 2)
  | abs (lane : Fin 2)
  | min (lane : Fin 2)
  | max (lane : Fin 2)
  | mulq (lane : Fin 2)
  | sra (lane : Fin 2)
  | and (lane : Fin 2)
  | or (lane : Fin 2)
  | andi (lane : Fin 2)
  | ema (lane : Fin 2)
  | clrp (lane : Fin 2)
  | ldr (lane : Fin 2)
  | lds (lane : Fin 2)
  | ldsx (lane : Fin 2)
  | ldf (lane : Fin 2)
  | ldfx (lane : Fin 2)
  | ldc (lane : Fin 2)
  | ldq (lane : Fin 2)
  | ldp (lane : Fin 2)
  | ldk (lane : Fin 2)
  | b (lane : Fin 2)
  | beq (lane : Fin 2)
  | bne (lane : Fin 2)
  | blt (lane : Fin 2)
  | bge (lane : Fin 2)
  | bz (lane : Fin 2)
  | bnz (lane : Fin 2)
  | bltz (lane : Fin 2)
  | bbs (lane : Fin 2)
  | bbc (lane : Fin 2)
  | bp (lane : Fin 2)
  | jcs (lane : Fin 2)
  | jst (lane : Fin 2)
  | sst (lane : Fin 2)
  | sstv (lane : Fin 2)
  | tset (lane : Fin 2)
  | tseti (lane : Fin 2)
  | cls (lane : Fin 2)
  | hold (lane : Fin 2)
  | vout (lane : Fin 2)
  | loop (lane : Fin 2)
  | emit (lane : Fin 2)
  | mark (lane : Fin 2)
  | sig (lane : Fin 2)
  | illegalOp (lane : Fin 2)
  | charmRecordWrite
  | ceCtrlWrite (r : Req) (v : Word)
  | ceLeaseAcquire (k : Fin 4)
  | ceLeaseRelease (k : Fin 4)
  | ceLeaseExpiry
  | ceICtrlWrite (r : Req) (v : Word)
  | ceSrcWrite (r : Req) (n : Fin 32) (v : Word)
  | ceClassWrite (r : Req) (w : Fin 4) (v : Word)
  | ceSlackWrite (r : Req) (lane : Fin 2) (v : Word)
  | startBit (port : Fin 16)
  | characterReceived (port : Fin 16) (byte : Byte) (parityBad : Bool) (stopLow : Bool)
  | breakRx (port : Fin 16)
  | idleGap (port : Fin 16)
  | frameRecordWrite
  | ipCtrlWrite (r : Req) (port : Fin 16) (v : Word)
  | txdata (r : Req) (port : Fin 16) (v : Word)
  | characterSent (port : Fin 16)
  | ilCmdWrite (r : Req) (w : Fin 2) (v : Word)
  | voCodeWrite (r : Req) (n : Fin 16) (v : Word)
  | voutUpdate
  | loCmdWrite (r : Req) (n : Fin 8) (v : Word)
  | compliance (n : Fin 8)
  | loStatClear (r : Req) (n : Fin 8) (v : Word)
  | tick (m : TickIn)
  | pwrTjMaxWrite (r : Req) (v : Word)
  | bcPoll (h : BcHdr) (payload : List Byte)
  | bcStatus (h : BcHdr) (payload : List Byte)
  | bcStreamStat (h : BcHdr) (payload : List Byte)
  | bcStreamRead (h : BcHdr) (payload : List Byte)
  | bcStreamAck (h : BcHdr) (payload : List Byte)
  | bcClassRead (h : BcHdr) (payload : List Byte)
  | bcOutputRead (h : BcHdr) (payload : List Byte)
  | bcSensRead (h : BcHdr) (payload : List Byte)
  | bcMail (h : BcHdr) (payload : List Byte)
  | bcLocketRead (h : BcHdr) (payload : List Byte)
  | bcImgWrite (h : BcHdr) (payload : List Byte)
  | bcWake (h : BcHdr) (payload : List Byte)
  | bcReset (h : BcHdr) (payload : List Byte)
  | bcCall (h : BcHdr) (payload : List Byte)
  | bcUnknownType (h : BcHdr) (type : Byte) (payload : List Byte)
  | bcFrameDiscard (e : FrameErr)
  | bcReplySend (startBitFirst : Bool)
  | bcNoticeSend
  | bcMailGo (r : Req) (v : Word)
  | bcMailWaitExpiry
  | bcRateSwitch
  | bcWinClr (r : Req) (v : Word)
  | chainReset
  | twPoll (args : List Byte)
  | twStatus (args : List Byte)
  | twStreamStat (args : List Byte)
  | twStreamRead (args : List Byte)
  | twStreamAck (args : List Byte) (pec : Option Byte)
  | twClassRead (args : List Byte)
  | twOutputRead (args : List Byte)
  | twSensRead (args : List Byte)
  | mailPut (args : List Byte) (pec : Option Byte)
  | twLocketRead (args : List Byte)
  | twImgWrite (args : List Byte) (pec : Option Byte)
  | twReset (args : List Byte) (pec : Option Byte)
  | result (args : List Byte)
  | lastErr (args : List Byte)
  | alertResponse (others : List (BitVec 7)) (addrByteDone : Bool)
  | twProtocolError (e : TwProto)
  | twReadDiscard (cmd : Byte)
  | twSclTimeout
  | alertLatch
  | twMailGo (r : Req) (v : Word)
  | twAlertClr (r : Req) (v : Word)
  | twWinClr (r : Req) (v : Word)
  | eepromRead (fail : Option EepErr)
  | eepromReadRetry (fail : Option EepErr)
  | eepromWrite (stuck : Bool)
  | storeFinish
  | storeNoack
  | imgLeaseAcquire (k : Fin 4)
  | imgLeaseRelease (k : Fin 4)
  | imgLeaseExpiry
  | imgReqRead (k : Fin 4)
  | imgReqStore (k : Fin 4)
  | startUpSequence (m : StartIn)
  | pllUnlock
  | pllRelock
  | pllLockTimeout
  | rootLoss
  | sscDepthApply
  | epochWrap
  | pwrReqDoze (k : Fin 4)
  | pwrReqSleep (k : Fin 4)
  | pwrReqRun (k : Fin 4)
  | pwrEntryTimeout
  | dozeEnter
  | sleepEntry
  | sleepExit
  | pfwStart (mv : Nat := 0)
  | pfwFlushed
  | pfwEnd (mv : Nat := 2400)
  | por (c : PorCause)
  | nrst
  | warmReset (left : List Nat)
  | memSliceStart
  | memSliceEnd (failing : List (Fin 2048)) (again : List (Fin 2048))
  | bistRepair (r : Req) (v : Word)
  | dpSliceStart
  | dpSliceEnd (signatureOk : Bool)
  | lkK0Rst (k : Fin 4) (v : Word)
  | k0SequencerReset (left : Nat)
  | lkCommit (k : Fin 4) (len : W32)
  | lkK0Ok (k : Fin 4)
  | lkClear (k : Fin 4)
  | hmKey (k : Fin 4) (v : Word)
  | hmAdvance (k : Fin 4) (v : Word)
  | hallmarkReset
  | hmUpd (k : Fin 4) (v : W32)
  | hmUpdTimeout
  | debugHalt (k : Fin 4)
  | debugResume (k : Fin 4) (m : DebugIn)
  | porRelease (st : Straps)
  | nrstRelease
  | breakEnd (port : Fin 16)
  | stopCondition
  | boundaryScanExtest (on : Bool)
  deriving DecidableEq, Repr

end Sys2Proof
end

