-- ==== Sys2Proof/Config.lean ====
section
/-! DEFINITION. What an implementation fixes and the spec leaves open: the free values. Nothing can evaluate them. -/
namespace Sys2Proof.Config

/-- Free value (log 2): the parcel a keeper fetches from working RAM that was stored and not yet
followed by a FENCE.I (08 R347), by the count of free values used so far. -/
opaque staleParcel : Nat → BitVec 16

/-- Free value (log 3): the data of words that port 1 delivers as poisoned because it was refused
(05 R236): only their mark is stated. -/
opaque refusedWord : Nat → BitVec 16

/-- Free value (log 4): a byte of a page whose memory slice was abandoned (14 R580). -/
opaque abandonedByte : Nat → BitVec 8

/-- Free value (log 7): what IMG_HU_V reads when V of 12 R523 exceeds 16 bits, by that V. -/
opaque wideVolt : Nat → BitVec 16

/-- Free value (log 7): what IMG_HU_EAV, IMG_HU_EREQ hold when an energy of 12 R523 exceeds 32 bits, by that energy. -/
opaque wideEnergy : Nat → BitVec 32

/-- Free value (log 9): a byte of a begun store that a POR may have torn (13 R568), by the count of free values used. -/
opaque tornByte : Nat → BitVec 8

end Sys2Proof.Config
end

