-- ==== Sys2Proof/Machine/State.lean ====
section
/-! DEFINITION. The state of the hub: every register, memory, queue, mode and mark that the spec gives it, as plain data,
and the state after reset. Reset values are those of the register tables; the others are named in the assumption log. -/
namespace Sys2Proof.Machine

/-- The three parts (01 R48). -/
inductive Variant where
  | thr6420
  | thr6412
  | thr6404
  deriving DecidableEq, Repr

/-! ## Keepers and the interrupt controller (08) -/

/-- A working RAM store waiting in a keeper's store buffer (08 R345). -/
structure StoreEntry where
  /-- offset in working RAM of the first byte -/
  addr : Nat
  bytes : List Byte
  deriving DecidableEq, Repr

/-- A keeper: its RV32IMC state (08 R340), its KP_ registers (08 R384) and its banked select registers (04 R214, 07 R335). -/
structure Keeper where
  /-- out of reset: released and executing (08 R343) -/
  run : Bool := false
  pc : W32 := 0
  regs : Tab W32 := []
  mstatusMie : Bool := false
  mstatusMpie : Bool := false
  mtvec : W32 := 0
  meie : Bool := false
  mtie : Bool := false
  mscratch : W32 := 0
  mepc : W32 := 0
  mcause : W32 := 0
  mtval : W32 := 0
  mcycle : BitVec 64 := 0
  minstret : BitVec 64 := 0
  inhibitCy : Bool := false
  inhibitIr : Bool := false
  /-- stalled in WFI (13 R546) -/
  wfi : Bool := false
  /-- in debug halt (KP_STATUS.DBG_HALT) -/
  dbgHalt : Bool := false
  sbuf : List StoreEntry := []
  /-- working RAM halfword offsets stored by any keeper and not yet followed by this keeper's FENCE.I (08 R347) -/
  stale : List Nat := []
  /-- a keeper-alone reset has been caused and not yet performed (08 R350) -/
  resetDue : Bool := false
  absentHit : Bool := false
  wdtWarn : Bool := false
  peerRst : Bool := false
  rstWdt : Bool := false
  rstDbl : Bool := false
  rstCmd : Bool := false
  badKick : Bool := false
  inTrap : Bool := false
  /-- KP_RSTINFO.DISCARD -/
  discard : Byte := 0
  wdtEn : Bool := false
  wdtDbgRun : Bool := false
  wdtTimeout : BitVec 12 := 0
  wdtStage : Bool := false
  /-- cycles counted in this stage before the last stop of the watchdog -/
  wdtAcc : Nat := 0
  /-- when the watchdog last began to count, if it counts now (08 R357) -/
  wdtFrom : Option Nat := none
  mtimecmp : BitVec 64 := BitVec.allOnes 64
  ssDsel : BitVec 8 := 0
  ssRsel : BitVec 13 := 0
  ssPsel : BitVec 13 := 0
  elogIdx : BitVec 6 := 0
  /-- SS_ALLOC_RES as last completed: status and page -/
  allocRes : Word := 0
  /-- the result of a running allocation: SS_ALLOC_RES reads BUSY until it is readable (04 R198) -/
  allocNext : Option Word := none
  ceIsel : BitVec 11 := 0
  deriving DecidableEq, Repr

/-- An entry of an in-service stack: the ID and the priority with which it was claimed (08 R367, R370). -/
structure InSvc where
  id : BitVec 10
  prio : BitVec 4
  deriving DecidableEq, Repr

/-- The private bank of a keeper in the interrupt controller (08 R383). -/
structure KicBank where
  /-- KIC_Kn_PCFG0-31: [5:4] SENSE, [3:0] PRIO -/
  pcfg : Tab Word := []
  ppend : W32 := 0
  pmask : W32 := BitVec.allOnes 32
  /-- input levels in the previous cycle -/
  pin : W32 := 0
  /-- pending sets held back by FREEZE (08 R372) -/
  pheld : W32 := 0
  /-- doorbell pulses of this cycle (08 R380) -/
  bells : BitVec 4 := 0
  split : BitVec 3 := 0
  group : Bool := false
  thresh : BitVec 4 := 0
  /-- innermost entry first -/
  stack : List InSvc := []
  freezeTmo : Bool := false
  complErr : Bool := false
  /-- the BUS_CLK cycle in which this keeper's FREEZE bit was set, if it is 1 (08 R374) -/
  freezeAt : Option Nat := none
  /-- the keeper whose claim read of this bank is stalled (08 R373) -/
  stalled : Option (Fin 4) := none
  deriving DecidableEq, Repr

/-- The shared half of the interrupt controller and the always-on watch (08 R377, R382). -/
structure Kic where
  /-- KIC_SCFG0-255: [9:8] TARGET, [5:4] SENSE, [3:0] PRIO -/
  scfg : Tab Word := []
  spend : BitVec 256 := 0
  smask : BitVec 256 := BitVec.allOnes 256
  /-- input levels in the previous cycle -/
  sin : BitVec 256 := 0
  sheld : BitVec 256 := 0
  /-- KIC_WATCH0-15: [15] EN, [7:0] SRC -/
  watch : Tab Word := []
  watchHit : Word := 0
  /-- input levels as the watch last sensed them (08 R377) -/
  wsin : BitVec 256 := 0
  deriving DecidableEq, Repr

/-! ## Front end and decimation (02, 03) -/

/-- The four states of a pair (02 R84). -/
inductive PairState where
  | off
  | ok
  | opn
  | short
  deriving DecidableEq, Repr

/-- The front-end side of one sensing pair (02). -/
structure PairFe where
  st : PairState := .off
  /-- in DC-HOLD, as in force since the last swap instant (02 R94) -/
  dch : Bool := false
  /-- held phase negative, as in force -/
  neg : Bool := false
  /-- consecutive measurements towards OPEN, towards SHORT and back to OK (02 R85, R86) -/
  runOpen : Nat := 0
  runShort : Nat := 0
  runBack : Nat := 0
  /-- the state that a decision at the latest swap instant moves the pair to, until it is carried out -/
  decide : Option PairState := none
  iex : Word := 0
  /-- E up to which the pair was last OFF, OPEN or SHORT: the instant of its return to OK (03 R139) -/
  okFrom : Nat := 0
  deriving DecidableEq, Repr

/-- The modulator side of a chain: the eight 28-bit CIC registers (03 R116). -/
structure Cic where
  i1 : BitVec 28 := 0
  i2 : BitVec 28 := 0
  i3 : BitVec 28 := 0
  i4 : BitVec 28 := 0
  c1 : BitVec 28 := 0
  c2 : BitVec 28 := 0
  c3 : BitVec 28 := 0
  c4 : BitVec 28 := 0
  deriving DecidableEq, Repr

/-- One filter of a pair: the FIR stage of a preset, or TOUCHSTONE (03 R123-R126). -/
structure Filt where
  /-- configuration word (03 R155) -/
  word : Word := 0x0002
  /-- halfband outputs of the block in progress, summed -/
  bacc : Int := 0
  /-- block sums, newest first, at most 128 -/
  bs : List Int := []
  /-- CIC outputs since the last TOUCHSTONE instant, summed -/
  tacc : Int := 0
  /-- halfband samples by which the filter reads late (03 R150, R153) -/
  pad : Nat := 0
  deriving DecidableEq, Repr

/-- A live change of a pair (03 R141-R154). -/
structure Change where
  /-- the captured configuration word -/
  word : Word
  /-- start instant S, in E -/
  start : Nat
  /-- the new filter runs beside the old one -/
  running : Bool := false
  new : Filt := {}
  /-- first fade instant F, in E -/
  fade : Nat := 0
  /-- the pad that the change ends with -/
  padEnd : Nat := 0
  /-- from this instant the old filter reads p + k samples late, and its samples carry FADE (03 R153) -/
  glideFrom : Option Nat := none
  glidePad : Nat := 0
  /-- unsaturated codes of the fade instant in progress: instant and code -/
  uOld : Option (Nat × Int) := none
  uNew : Option (Nat × Int) := none
  deriving DecidableEq, Repr

/-- A final sample that has been formed and not yet delivered (03 R131). -/
structure Out where
  /-- output instant, in E -/
  at_ : Nat
  mode : Nat
  value : Word
  flags : Byte
  deriving DecidableEq, Repr

/-- The last restart of a pair: what the GAP record of 04 R189 tells each stream of it. -/
structure RestartGap where
  /-- 0 restart, 1 restart by a datapath slice -/
  reason : Nat
  /-- restart instant S, in E -/
  at_ : Nat
  /-- its place in the order of causes of GAP records (04 R179) -/
  ord : Nat
  deriving DecidableEq, Repr

/-- The records of one stream in which a pair's slot has held 0 with STALE since its restart (04 R189): how many, and the
instant of the first. -/
structure Missing where
  count : Nat := 0
  first : Option Nat := none
  deriving DecidableEq, Repr

/-- The decimation side of one sensing pair (03). -/
structure PairDc where
  cic : Cic := {}
  /-- CIC outputs accepted, newest first, at most 11 (03 R119, R122) -/
  ys : List Int := []
  /-- halfband outputs, newest first, at most 2,049: the pad line (03 R150) -/
  hs : List Int := []
  filt : Filt := {}
  /-- DC_NEXTnnn -/
  next : Word := 0x0002
  /-- DC_PADnnn -/
  pad : Nat := 0
  /-- DC_COARSEnnn -/
  coarse : Word := 0
  /-- DC_LASTnnn -/
  last : Word := 0
  /-- flags and output instant of the latest final sample -/
  lastFlags : Byte := 0
  lastAt : Nat := 0
  change : Option Change := none
  outs : List Out := []
  /-- restart instant S of the last restart, in E -/
  s0 : Nat := 0
  /-- CIC outputs are accepted from this instant (03 R136) -/
  acceptFrom : Nat := 0
  /-- a restart is due at the next swap instant, with its GAP reason (03 R135) -/
  restartReq : Option Nat := none
  /-- a restart is due now: S and its GAP reason -/
  restartDue : Option (Nat × Nat) := none
  /-- the first final sample, the first coarse value after the restart carries RESTART (03 R138) -/
  markFinal : Bool := false
  markCoarse : Bool := false
  /-- the pair has delivered a final sample since its restart (04 R186) -/
  hasOut : Bool := false
  /-- the last restart, if there was one since the reset -/
  restart : Option RestartGap := none
  /-- SAMPLE streams in which the pair's slot has carried RESTART since, and what the others miss (04 R186, R189) -/
  shownS : List Nat := []
  missS : Tab Missing := []
  /-- the same of COARSE streams (04 R187, R189) -/
  shownC : List Nat := []
  missC : Tab Missing := []
  /-- DC_GO written while the pair was under a datapath slice, with the word captured (14 R589) -/
  heldGo : Option Word := none
  /-- DC_RESTART written while the pair was under a datapath slice -/
  heldRestart : Bool := false
  /-- the coarse value formed at the latest swap instant: instant, value, flags; none before R137 allows one -/
  coarseNow : Option (Nat × Int × Byte) := none
  deriving DecidableEq, Repr

/-- The registers of the FE_ block and the swap schedule (02 R103-R109). -/
structure Fe where
  /-- FE_CTRL.RUN -/
  run : Bool := false
  /-- FE_STATUS.RUNNING -/
  running : Bool := false
  deb : BitVec 6 := 8
  vex : Word := 0
  /-- AVDD_EX in mV as the board last presented it (02 R69; log 11) -/
  avdd : Nat := 2500
  pairEn : PairMap := 0
  dch : PairMap := 0
  dchNeg : PairMap := 0
  openStk : PairMap := 0
  shortStk : PairMap := 0
  ovrStk : PairMap := 0
  faultIe : PairMap := 0
  sensA : Tab Word := []
  sensG : Tab Word := []
  /-- E at which the next swap instant may fall -/
  nextSwap : Nat := 0
  /-- E of the latest swap instant -/
  lastSwap : Nat := 0
  /-- the period from which FE_CLK has run without a stop (13 R538) -/
  clkFrom : Nat := 0
  /-- pods whose pair-state source has occurred at the latest swap instant (07 R290) -/
  podsChanged : BitVec 32 := 0
  deriving DecidableEq, Repr

/-- The global registers of the DC_ block, the coefficient sets and the instants awaiting delivery (03 R133, R156-R158). -/
structure Dc where
  sets : BitVec 6 := 0
  /-- by set number: the first half f_0 ... f_(N/2-1) of its coefficients -/
  coefs : Tab (List Int) := []
  rejCnt : Word := 0
  discard : Word := 0
  busy : PairMap := 0
  doneStk : PairMap := 0
  doneIe : PairMap := 0
  rejStk : PairMap := 0
  alskipStk : PairMap := 0
  satStk : PairMap := 0
  /-- E at which the next CIC output instant may fall -/
  nextCic : Nat := 0
  /-- by mode: E at which its next output instant may fall -/
  nextOut : Tab Nat := []
  /-- output instants awaiting delivery: instant and mode, in order -/
  dues : List (Nat × Nat) := []
  /-- swap instants whose coarse values await delivery -/
  coarseDues : List Nat := []
  deriving DecidableEq, Repr

/-! ## Sample store and streams (04) -/

/-- The states of a page (04 R166). -/
inductive PageState where
  | free
  | allocated
  | borrowed
  | retired
  | locket
  | retirePending
  | absent
  deriving DecidableEq, Repr

/-- A page: its state and owner tag (04 R166). -/
structure Page where
  st : PageState
  tag : BitVec 8
  deriving DecidableEq, Repr

/-- A GAP record falling due to a stream (04 R189): the arbiter port of its writer, reason, pair, count, first instant, and
its place in the order of causes (04 R179). -/
structure Gap where
  port : Nat
  reason : Nat
  pair : Word
  count : Nat
  e : Nat
  ord : Nat
  deriving DecidableEq, Repr

/-- A record laid out from word 0 and not yet written (04 R182-R184), with its order of completion (04 R177). -/
structure Rec where
  stream : Fin 256
  e : Nat
  words : List Word
  /-- GAP records that the record owes to restarts, written immediately before it (04 R189) -/
  gaps : List Gap := []
  ord : Nat := 0
  deriving DecidableEq, Repr

/-- A slot of a SAMPLE or COARSE record: value and flag byte (04 R185). -/
structure Slot where
  value : Word
  flags : Byte
  deriving DecidableEq, Repr

/-- A stream: its descriptor (04 R215) and its writer's state. -/
structure Stream where
  armed : Bool := false
  kind : BitVec 3 := 0
  overwrite : Bool := false
  mode : BitVec 3 := 0
  km1 : BitVec 4 := 0
  wmIe : Bool := false
  wmArm : Bool := false
  rbase : BitVec 13 := 0
  rlen : BitVec 14 := 0
  head : Nat := 0
  tail : Nat := 0
  wm : W32 := 0
  wmHit : Bool := false
  wmReceded : Bool := false
  dropped : Bool := false
  overwritten : Bool := false
  /-- the hub has moved TAIL in this cycle, plus 1 (04 R180) -/
  movedAt : Nat := 0
  tailErr : Bool := false
  checking : Bool := false
  armErr : BitVec 3 := 0
  /-- K × N exceeded 1,362 at the ARMED write of the check in progress (04 R203) -/
  slotsOver : Bool := false
  /-- writing begins with records that are complete from this place in the order on (04 R203) -/
  armOrd : Nat := 0
  /-- the record in progress when the stream was disarmed, by its place: it is still written (04 R204) -/
  lastOrd : Option Nat := none
  drop : Word := 0
  /-- the stream has been marked seen since the last WM_HIT (04 R191, R192) -/
  seen : Bool := false
  /-- LEVEL as kept by a warm reset until HEAD is written or the stream is armed; a TAIL write lowers it (04 R205) -/
  keptLevel : Option Nat := none
  /-- pending GAP records of reason 2 and 3, oldest first -/
  gaps : List Gap := []
  /-- E of the last SAMPLE record assembled, plus 1 -/
  lastRec : Nat := 0
  /-- the COARSE record collecting instants: members, first instant, slots so far, GAP records owed -/
  members : List (Fin 192) := []
  asmFirst : Option Nat := none
  asmSlots : List Slot := []
  asmGaps : List Gap := []
  deriving DecidableEq, Repr

/-- A lease (04 R196): SS_LEASE, CE_LEASE or IMG_LEASE. -/
structure Lease where
  held : Bool := false
  owner : Fin 4 := 0
  /-- when it was granted or last renewed -/
  since : Nat := 0
  /-- the TMO in force -/
  tmoInForce : Nat := 96
  /-- the TMO register -/
  tmo : Word := 96
  deriving DecidableEq, Repr

/-- An entry of the error log (04 R212). -/
structure ElogEntry where
  page : Nat
  bank : Nat
  row : Nat
  count : Word
  deriving DecidableEq, Repr

/-- A record that the fetch unit is to read (07 R299): stream, position, length and instant, from the writer. -/
structure Fetch where
  stream : Fin 256
  pos : Nat
  len : Nat
  e : Nat
  deriving DecidableEq, Repr

/-- The SS_ block, the pages, the ring table and the writers' queues (04 R215-R217). -/
structure Ss where
  pages : Tab Page := []
  ring : Tab (BitVec 13) := []
  streams : Tab Stream := []
  psample : Tab Word := []
  pcoarse : Tab Word := []
  lease : Lease := {}
  freePage : BitVec 13 := 0
  freeReason : BitVec 3 := 0
  freeFpage : BitVec 13 := 0
  freeFcnt : Word := 0
  flt : BitVec 7 := 0
  lastOwner : Fin 4 := 0
  fltIe : BitVec 7 := 0
  scrubEn : Bool := true
  scrubLap : W32 := 0
  scrubSkip : Word := 0
  /-- by bank group: words of the lap already passed -/
  scrubPos : Tab Nat := []
  /-- when the lap in progress began, in units of `now` -/
  scrubStart : Nat := 0
  iscrubEn : Bool := true
  iscrubRate : BitVec 8 := 0xFF
  /-- next image RAM word of the image scrubber -/
  iscrubPos : Nat := 0
  /-- when the image scrubber's last read, or the last SS_ISCRUB write, was -/
  iscrubAt : Nat := 0
  imgAddr : BitVec 18 := 0
  imgRep : Word := 0
  wramAddr : BitVec 18 := 0
  wramCnt : Word := 0
  elog : List ElogEntry := []
  elogOvf : Word := 0
  /-- complete SAMPLE and COARSE records in the write-combine buffers -/
  ready : List Rec := []
  /-- records written to streams and to be fetched by the charm engine -/
  fetches : List Fetch := []
  /-- image RAM words to be refetched (04 R206) -/
  refetches : List Nat := []
  /-- next order of completion of a record -/
  ord : Nat := 0
  deriving DecidableEq, Repr

/-! ## Store arbiters (05) -/

/-- A request that a port has raised, and the cycle in which it did (05 R221). -/
structure Raised where
  q : ArbRequest
  at_ : Nat
  deriving DecidableEq, Repr

/-- A burst that holds a group, or that port 11 has suspended (05 R222-R232). -/
structure Burst where
  owner : Nat
  /-- words that had not moved before `start` -/
  left : Nat
  /-- hold cycle 1: the grant cycle, or the first word's where there was none, later by the cycles that port 11 held the
  group (05 R223, R232) -/
  hold1 : Nat
  /-- the cycle in which the first of these words moves; of a suspended burst the cycle in which port 11 requested -/
  start : Nat
  /-- the hold limit in force for the grant (05 R245) -/
  holdMax : Nat
  /-- the burst had a grant cycle: it was neither parked, nor port 11's after a pre-emption, nor resumed (05 R227, R230, R231) -/
  cycle : Bool
  deriving DecidableEq, Repr

/-- A bank group's arbiter (05 R249, R251). -/
structure ArbGroup where
  /-- by port: the request raised -/
  reqs : Tab (Option Raised) := []
  /-- the grant in progress -/
  grant : Option Burst := none
  parked : Bool := false
  /-- the last holder (ARB_Gg_OWNER) -/
  owner : Nat := 0
  /-- the burst that port 11 has suspended (05 R230) -/
  susp : Option Burst := none
  /-- the first cycle that can be a grant cycle (05 R229, R233) -/
  freeAt : Nat := 0
  lastNormal : Nat := 10
  lastHigh : Nat := 1
  /-- the last class grant went to the High class -/
  lastClassHigh : Bool := false
  cutValid : Bool := false
  cutPort : BitVec 4 := 0
  cutLeft : BitVec 5 := 0
  /-- requests dropped by hints (05 R240): by port, the request, and when it is raised again -/
  dropped : Tab (Option (ArbRequest × Nat)) := []
  deriving DecidableEq, Repr

/-- The ARB_ block (05 R244-R249). -/
structure Arb where
  hint6 : Bool := true
  hint7 : Bool := true
  holdMax : BitVec 10 := 64
  block : BitVec 11 := 0
  cutIe : BitVec 11 := 0
  hintThr : BitVec 10 := 128
  cutCnt : Word := 0
  groups : Tab ArbGroup := []
  deriving DecidableEq, Repr

/-! ## Recognizers (06) -/

/-- The parameters of a pod's recognizers (06 R281). -/
structure PodParams where
  en : Bool := false
  ev : Bool := false
  tapEn : Bool := true
  dtEn : Bool := true
  fsEn : Bool := true
  fsEach : Bool := false
  fsSupp : Bool := false
  ffEn : Bool := true
  stream : BitVec 8 := 0
  tipEn : Bool := false
  sh : BitVec 4 := 12
  impOn : BitVec 12 := 40
  impOff : BitVec 12 := 20
  endQ : BitVec 12 := 48
  tapPeak : BitVec 12 := 200
  tapWmax : BitVec 12 := 240
  dtGmin : Word := 2400
  dtGmax : Word := 12000
  fsPeak : BitVec 12 := 40
  fsWmin : BitVec 12 := 240
  fsWmax : BitVec 12 := 2400
  fsImin : Word := 7200
  fsImax : Word := 36000
  fsCount : BitVec 8 := 3
  ffThr : BitVec 12 := 64
  ffMin : Word := 1920
  tipThr : BitVec 12 := 64
  tipMin : Word := 375
  refX : Word := 0
  refY : Word := 0
  refZ : Word := 0
  deriving DecidableEq, Repr

/-- The impulse detector (06 R261), counting instants. -/
inductive Det where
  | idle
  | active (s : Nat) (peak : Nat) (e : Nat) (q : Nat)
  | blocked (q : Nat)
  deriving DecidableEq, Repr

/-- A decision of a recognizer instant that has come due and not yet been carried out, in the order of 06 R276. -/
inductive RcDue where
  | settlingEnd
  | long (peak : Nat)
  | impulseEnd
  | blockedEnd
  | stepsEnd
  | fall
  | fallEnd (f : Nat)
  | tip (axis : Nat) (g : Nat)
  | tipClear (g : Nat)
  deriving DecidableEq, Repr

/-- A pod's recognizer set (06). Instants are numbered E / 128. -/
structure Pod where
  prm : PodParams := {}
  /-- the parameters in force since the last swap instant (06 R264) -/
  inForce : PodParams := {}
  refcap : Bool := false
  refcapInForce : Bool := false
  bX : Int := 0
  bY : Int := 0
  bZ : Int := 0
  /-- the next valid instant is the first after a void run, after enabling or after a reset (06 R259) -/
  fresh : Bool := true
  /-- the latest instant was void -/
  void : Bool := false
  /-- end of SETTLING, as an instant number -/
  settleEnd : Option Nat := none
  det : Det := .idle
  d : Nat := 0
  /-- start of the reference tap (06 R265) -/
  refTap : Option Nat := none
  count : Nat := 0
  firstCounted : Nat := 0
  lastCounted : Option Nat := none
  train : Bool := false
  ffRun : Nat := 0
  ffLow : Nat := 0
  falling : Bool := false
  tipRun : Nat := 0
  tipped : Bool := false
  evCnt : Word := 0
  /-- the instant of the dues -/
  now : Nat := 0
  dues : List RcDue := []
  deriving DecidableEq, Repr

/-- A recognizer event in the queue (06 R275, R276). -/
structure RcEvent where
  pod : Fin 32
  code : Byte
  e : Nat
  a : Word
  b : Word
  deriving DecidableEq, Repr

/-- The global half of the RC_ block (06 R279). -/
structure Rc where
  flt : BitVec 3 := 0
  fltIe : BitVec 3 := 0
  qovf : Word := 0
  unclass : Word := 0
  pods : Tab Pod := []
  queue : List RcEvent := []
  deriving DecidableEq, Repr

/-! ## Charm engine (07) -/

/-- A charm (07 R287). -/
structure Inst where
  en : Bool := false
  /-- EN was cleared while an activation runs: it takes effect at its end (07 R331) -/
  closing : Bool := false
  prog : BitVec 6 := 0
  state : Byte := 0
  v : Tab Word := []
  p : Byte := 0
  t0 : Word := 0
  t1 : Word := 0
  sub01 : Word := 0
  sub23 : Word := 0
  c : Tab Word := []
  stat : Byte := 0
  lateCnt : Word := 0
  deriving DecidableEq, Repr

/-- A word of a record buffer with its poison mark (07 R299). -/
structure MWord where
  w : Word
  poison : Bool
  deriving DecidableEq, Repr

/-- An activation that is pending (07 R293). -/
structure Act where
  inst : Fin 2048
  cause : Nat
  /-- instant, in E (07 R321) -/
  e : Nat
  /-- for a SAMPLE or COARSE record: the deadline, in E -/
  deadline : Option Nat := none
  /-- the source of a subscription's activation -/
  src : Option (Fin 32) := none
  /-- the stream of a periodic activation's record -/
  strm : Option (Fin 256) := none
  /-- the event of a recognizer activation (07 R303) -/
  event : Option (List MWord) := none
  /-- records skipped under LATE marking -/
  skipped : Nat := 0
  deriving DecidableEq, Repr

/-- An activation that runs on a lane (07 R294, R298). -/
structure Run where
  act : Act
  pc : Nat
  pentry : Nat
  maxSteps : Nat
  steps : Nat := 0
  /-- a poisoned operand has been consumed (07 R308) -/
  hit : Bool := false
  buf : Option (List MWord) := none
  /-- the next record of its stream has been fetched while it runs (07 R327) -/
  late : Bool := false
  deriving DecidableEq, Repr

/-- The newest record fetched for a stream source (07 R302). -/
structure SrcBuf where
  e : Nat
  words : List MWord
  deriving DecidableEq, Repr

/-- The charm engine (07 R334). -/
structure Ce where
  run : Bool := false
  flt : BitVec 12 := 0
  lastOwner : Fin 4 := 0
  fltIe : BitVec 12 := 0
  lateCnt : Word := 0
  poisonCnt : Word := 0
  overrunCnt : Word := 0
  bgqOvf : Word := 0
  wqDrop : Word := 0
  lease : Lease := {}
  evStream : BitVec 9 := 0
  slack0 : Word := 0xFFFF
  slack1 : Word := 0xFFFF
  /-- two bits for each pod (07 R317) -/
  classes : BitVec 64 := 0x5555555555555555
  sigStk : Byte := 0
  sigIe : Byte := 0
  sigInst : Tab (BitVec 11) := []
  /-- CE_SRC0-31: [15:14] TYPE, [7:0] number -/
  srcs : Tab Word := []
  insts : Tab Inst := []
  periodic : List Act := []
  bg0 : List Act := []
  bg1 : List Act := []
  run0 : Option Run := none
  run1 : Option Run := none
  bufs : Tab (Option SrcBuf) := []
  wq : List Rec := []
  /-- timers that reached 0 at the latest tick and whose activation has not been raised: charm, timer, instant -/
  expired : List (Fin 2048 × Bool × Nat) := []
  deriving DecidableEq, Repr

/-! ## Instrument ports and outputs (09) -/

/-- A frame being received, or complete and waiting (09 R393, R400). -/
structure Frame where
  e : Nat
  tag : BitVec 2
  bytes : List Byte := []
  lineErr : Bool := false
  trunc : Bool := false
  cause : BitVec 2 := 0
  ord : Nat := 0
  deriving DecidableEq, Repr

/-- An instrument port (09 R421). -/
structure Port where
  en : Bool := false
  deEn : Bool := false
  echoSupp : Bool := false
  mode : BitVec 2 := 0
  stream : BitVec 8 := 0
  pre : Bool := false
  bits7 : Bool := false
  parity : BitVec 2 := 0
  stop2 : Bool := false
  div : Word := 2560
  gap : Byte := 0
  endByte : Byte := 0x0A
  len : BitVec 10 := 512
  pods : BitVec 32 := 0
  stat : BitVec 7 := 0
  ie : BitVec 7 := 0
  frames : Word := 0
  truncCnt : Word := 0
  ovrCnt : Word := 0
  /-- IP_n_LAST_TS -/
  lastTs : Nat := 0
  frame : Option Frame := none
  /-- every byte is discarded up to and including the next delimiter, after a truncation (09 R395) -/
  discardTrunc : Bool := false
  /-- the frame in progress found both buffers occupied and is discarded: its bytes so far (09 R400) -/
  discardOvr : Option Nat := none
  /-- the receiver waits for the end of a break (09 R392) -/
  breakWait : Bool := false
  /-- completed frames in their buffers -/
  done : List Frame := []
  txFifo : List Byte := []
  /-- IPn_DE -/
  de : Bool := false
  /-- IPn_TXD over the character last sent, bit time by bit time, start bit first (09 R389, R402) -/
  txd : List Bool := []
  deriving DecidableEq, Repr

/-- A loop output (09 R424). -/
structure LoopOut where
  cmd : Word := 3500
  /-- the command applied to the sink -/
  applied : Nat := 3500
  meas : Word := 0
  safe : Word := 3500
  drop : Bool := true
  ie : BitVec 3 := 0
  compliance : Bool := false
  pois : Bool := false
  opn : Bool := false
  dropped : Bool := false
  shorts : Nat := 0
  /-- every counted short measurement was below 500 µA -/
  allLow : Bool := true
  /-- the eleventh consecutive short measurement has come, and whether all eleven were below 500 µA, until it is carried out -/
  due : Option Bool := none
  /-- ticks still to pass before a measurement is counted (09 R414) -/
  skip : Nat := 0
  deriving DecidableEq, Repr

/-- Ports and outputs (09 R422-R424). -/
structure Io where
  ports : Tab Port := []
  /-- the cycle, plus 1, of the last frame's completion, and the place that its frames share in the order (09 R401) -/
  frameAt : Nat := 0
  frameOrd : Nat := 0
  ilCmd : BitVec 32 := 0
  ilIn : BitVec 32 := 0
  ilSafe : BitVec 32 := BitVec.allOnes 32
  ilMis : BitVec 32 := 0
  ilPois : BitVec 32 := 0
  ilIe : BitVec 32 := 0
  /-- by line: consecutive swap instants asserted and high (09 R407) -/
  ilRun : Tab Nat := []
  voRef : Word := 0
  voRefLow : Bool := false
  voRefIe : Bool := false
  voPois : Word := 0
  voPoisIe : Word := 0
  voCode : Tab Word := []
  voSafe : Tab Word := []
  /-- the code at the output since the last update instant (09 R409) -/
  voOut : Tab Word := []
  nextVo : Nat := 0
  loops : Tab LoopOut := []
  deriving DecidableEq, Repr

/-! ## Bench chain and two-wire port (10, 11) -/

/-- An entry of a replay window (10 R453). -/
structure WinEntry where
  seq : Word
  crc : Word
  /-- reply TYPE and payload; empty while the reply of a MAIL is awaited -/
  type : Byte
  payload : List Byte
  deriving DecidableEq, Repr

/-- The replay window of one source address (10 R453). -/
structure Window where
  src : Byte
  /-- newest first, at most 32 -/
  entries : List WinEntry
  deriving DecidableEq, Repr

/-- A reply or notice to be sent (10 R436, R451). -/
structure BcReply where
  dest : Byte
  seq : Word
  type : Byte
  payload : List Byte
  /-- the reply of a STREAM_READ or LOCKET_READ, whose words pass port 6 -/
  reads : Bool := false
  /-- the reply of an accepted RESET (10 R460) -/
  resets : Bool := false
  /-- the reply of a WAKE received in SLEEP (10 R458) -/
  wakes : Bool := false
  deriving DecidableEq, Repr

/-- The pending MAIL (10 R446). -/
structure Mail where
  src : Byte
  seq : Word
  /-- the reply has not yet been given up with PENDING -/
  waiting : Bool
  /-- the source's window held no entry when the MAIL arrived -/
  fresh : Bool
  deriving DecidableEq, Repr

/-- A request that needs a stopped unit and waits for relock (13 R538). -/
structure BcHeld where
  head : BcHdr
  type : Nat
  payload : List Byte
  deriving DecidableEq, Repr

/-- The bench chain link (10 R461). -/
structure Bc where
  addr : BitVec 5 := 0
  callEn : Bool := true
  stat : BitVec 7 := 0
  lowRate : Bool := false
  ie : BitVec 7 := 0
  noticeFw : Byte := 0
  noticeMask : Word := 0xFFFF
  mailWait : BitVec 6 := 30
  mailRxLen : Word := 0
  mailSeq : Word := 0
  rxErr : Word := 0
  reqCnt : Word := 0
  dupCnt : Word := 0
  nseq : Word := 0
  mailRx : Tab Word := []
  mailTx : Tab Word := []
  /-- NOTICE bit 5: a reset has occurred since the last STATUS -/
  resetSince : Bool := true
  /-- most recently heard source first, at most four -/
  windows : List Window := []
  mail : Option Mail := none
  /-- when the wait of BC_MAIL_WAIT ends -/
  mailUntil : Nat := 0
  reply : Option BcReply := none
  notice : Option BcReply := none
  /-- the frame that the hub last sent on BC_TXD, from the preamble to the CRC -/
  sent : List Byte := []
  /-- a chain reset falls due after the RESET reply (10 R460) -/
  resetDue : Bool := false
  /-- the chain changes to the full rate 2 ms after a WAKE: from when (10 R458) -/
  rateDue : Option Nat := none
  /-- the WAKE that asks the power controller to leave SLEEP (10 R458) -/
  wakeReq : Bool := false
  /-- requests that wait for relock, oldest first (13 R538) -/
  held : List BcHeld := []
  deriving DecidableEq, Repr

/-- An entry of the tag window (11 R478). -/
structure TagEntry where
  tag : Byte
  cmd : Byte
  crc : Word
  /-- TWSTAT and the data that follow it -/
  res : List Byte
  dup : Bool := false
  deriving DecidableEq, Repr

/-- The two-wire target port (11 R492). -/
structure Tw where
  addr : BitVec 4 := 0
  pecReq : Bool := false
  stat : BitVec 6 := 0
  ie : BitVec 6 := 0
  noticeFw : Byte := 0
  alertMask : Word := 0
  alert : Bool := false
  /-- TW_NOTICE AND TW_ALERT_MASK as last compared for the alert latch (11 R488) -/
  alertSeen : Word := 0
  mailRxLen : Word := 0
  pecErr : Word := 0
  cmdCnt : Word := 0
  dupCnt : Word := 0
  timeoutCnt : Word := 0
  mailRx : Tab Word := []
  mailTx : Tab Word := []
  resetSince : Bool := true
  /-- newest first, at most 32 -/
  window : List TagEntry := []
  /-- the tag of the MAIL_PUT that awaits firmware's reply -/
  mail : Option Byte := none
  /-- LAST_ERR: CMD, code, detail -/
  lastErr : Byte × Byte × Word := (0, 0, 0)
  /-- the response bytes of the last read, COUNT included, check byte last -/
  resp : List Byte := []
  /-- the answered read whose words pass port 7, until the next response: CMD and arguments -/
  reading : Option (Byte × List Byte) := none
  /-- the last write was acknowledged to its end -/
  acked : Bool := true
  /-- the hub waits for a stop condition (11 R467) -/
  stopWait : Bool := false
  /-- commands that wait for relock, oldest first: CMD and the bytes that follow it (13 R538) -/
  held : List (Nat × List Byte) := []
  deriving DecidableEq, Repr

/-! ## EEPROM and image (12) -/

/-- Where a store comes from (12 R521). -/
inductive StoreSrc where
  | firmware
  | chain
  | twire
  deriving DecidableEq, Repr

/-- A begun store (12 R521). -/
structure EepStore where
  src : StoreSrc
  addr : Nat
  data : List Byte
  /-- the write transaction has ended and the controller polls (12 R499) -/
  polling : Bool := false
  pollFrom : Nat := 0
  deriving DecidableEq, Repr

/-- The header fields that stay in force (12 R505). -/
structure ImgHeader where
  entry : Tab W32 := []
  epage : Nat := 0
  twr : Nat := 0
  huC : Nat := 0
  huDiv : Nat := 0
  huVmin : Nat := 0
  huPwr : Nat := 0
  huMargin : Nat := 0
  permit : Nat := 0
  deriving DecidableEq, Repr

/-- The IMG_ block, the loaded slot and the EEPROM controller (12 R530). -/
structure Img where
  /-- the image EEPROM, an external part -/
  eeprom : Tab Byte := []
  /-- 0 none, 1 A, 2 B -/
  slot : BitVec 2 := 0
  fallback : Bool := false
  warn : Bool := false
  planSkipped : Bool := false
  armFail : Bool := false
  noImage : Bool := false
  reasonA : BitVec 4 := 0
  reasonB : BitVec 4 := 0
  seq : W32 := 0
  len : W32 := 0
  loadMs : Word := 0
  absCnt : Word := 0
  absAddr : W32 := 0
  hdr : ImgHeader := {}
  lease : Lease := {}
  reqAddr : BitVec 19 := 0
  reqLen : BitVec 9 := 0
  reqState : BitVec 3 := 0
  /-- the firmware request in hand is a read -/
  reqRd : Bool := false
  reqCode : BitVec 4 := 0
  huEav : W32 := 0
  huEreq : W32 := 0
  flt : BitVec 6 := 0
  lastOwner : Fin 4 := 0
  fltIe : BitVec 6 := 0
  faddr : BitVec 19 := 0
  buf : Tab Byte := []
  stores : List EepStore := []
  /-- a firmware read waits: its failures so far, and from when it may be tried again (12 R500) -/
  readTries : Nat := 0
  readAt : Nat := 0
  deriving DecidableEq, Repr

/-! ## Clocks, power, resets (13, 16) -/

/-- The power states that PWR_STAT.STATE shows (13 R565). -/
inductive PwrState where
  | run
  | doze
  | sleep
  deriving DecidableEq, Repr

/-- The CLK_ and PWR_ blocks (13 R564, R565; 16 R665, R667). -/
structure Pwr where
  ssc : BitVec 2 := 0
  pllLock : Bool := false
  /-- the PLL lost lock while running: since when (13 R537) -/
  unlockAt : Option Nat := none
  xsel : Bool := false
  sscAct : BitVec 2 := 0
  /-- when CORE_CLK and BUS_CLK last started, at a top of the modulation (01 R33) -/
  modAt : Nat := 0
  clkFlt : BitVec 2 := 0
  clkFltIe : BitVec 2 := 0
  unlockCnt : Word := 0
  req : BitVec 2 := 0
  st : PwrState := .run
  entering : Bool := false
  /-- when the present request was written (13 R546, R547) -/
  reqAt : Nat := 0
  pfwLive : Bool := false
  port11 : Bool := false
  /-- the flush of the warning has not yet ended -/
  flushing : Bool := false
  evt : BitVec 5 := 0
  evtIe : BitVec 5 := 0
  ret : Word := 0xFFFF
  /-- PWR_RET as captured at SLEEP entry step 5 (13 R552) -/
  retCap : Word := 0xFFFF
  entryTmo : Byte := 10
  pfwThr : Word := 0
  /-- when HOLDUP was last below 1.02 × PWR_PFW_THR, while a warning stands (13 R556) -/
  hupLow : Nat := 0
  holdup : Word := 0
  wakeCause : BitVec 2 := 0
  wakeEntry : BitVec 4 := 0
  /-- a power-fail warning has occurred since the last reset (12 R521) -/
  pfailSince : Bool := false
  /-- when SLEEP began -/
  sleepAt : Nat := 0
  /-- a watch event or chain wake asks to leave SLEEP: cause and entry -/
  wake : Option (Nat × Nat) := none
  /-- balls WAKE0-WAKE3 after their glitch filters -/
  wakeBalls : BitVec 4 := 0
  tj : Word := 0
  tjMax : Word := 0x8000
  /-- PWR_PADCFG0-23, by group, where written -/
  padcfg : Tab (Option Word) := []
  /-- EXTEST overrides the balls (16 R648) -/
  extest : Bool := false
  nextTick : Nat := 0
  deriving DecidableEq, Repr

/-- The RST_ block and the reset in progress (13 R559-R566). -/
structure Rst where
  kind : BitVec 3 := 0
  rootLoss : Bool := false
  pllLoss : Bool := false
  /-- a POR sets its own bit (13 R566) -/
  hist : BitVec 7 := 1
  discard : Byte := 0
  keepers : BitVec 4 := 0
  storeWait : Bool := false
  count : Word := 0
  warm : Bool := false
  ie : Bool := false
  /-- a warm reset in progress: steps 1 and 2 done, step 5 not yet -/
  pending : Bool := false
  /-- NRST is low: the reset stays applied (13 R560) -/
  nrstLow : Bool := false
  /-- applied, and not yet released because NRST is low -/
  heldByNrst : Bool := false
  /-- a POR holds the hub until it is released (16 R643) -/
  porHeld : Bool := false
  /-- the start-up sequence is to run (12 R518) -/
  startUpDue : Bool := true
  /-- the start-up sequence follows a POR (12 R519) -/
  cold : Bool := true
  /-- links answer: boot BIST has ended (10 R448) -/
  linksUp : Bool := false
  /-- the image load has completed -/
  loaded : Bool := false
  deriving DecidableEq, Repr

/-! ## Integrity (14) -/

/-- The BIST_, HM_ and LK_ blocks (14 R610-R612). -/
structure Integ where
  bootResult : BitVec 3 := 0
  safeCause : BitVec 2 := 0
  bootChain : Byte := 0
  bootAddr : W32 := 0
  safe : Bool := false
  memEn : Bool := false
  memPeriod : Word := 100
  memPage : BitVec 13 := 16
  memLap : W32 := 0
  untCnt : BitVec 14 := 0
  untFirst : BitVec 13 := 0
  /-- the page of the memory slice in progress -/
  memSlice : Option Nat := none
  /-- when it took its page -/
  memSliceAt : Nat := 0
  /-- when the last memory slice started, or EN was set -/
  memAt : Nat := 0
  lapAt : Nat := 0
  /-- a memory slice has started since the last reset -/
  memAny : Bool := false
  /-- pages tested in the lap -/
  tested : List Nat := []
  spareSel : BitVec 4 := 0
  /-- spares used in a bank since the fuse read: by bank -/
  sparesUsed : Tab Nat := []
  /-- spares left in a bank after the fuse repairs: 64 less those that the fuses took -/
  sparesFused : Tab Nat := []
  /-- rows that the fuses replaced: bank × 2048 + row -/
  fused : List Nat := []
  /-- soft repairs: bank × 2048 + row -/
  repaired : List Nat := []
  repairRes : BitVec 3 := 0
  repCnt : Word := 0
  dpWin : Bool := false
  dpPeriod : Word := 1000
  dpPair : BitVec 8 := 0
  /-- S0 of the datapath slice in progress -/
  dpSlice : Option Nat := none
  /-- the pair whose slice starts at the next swap instant -/
  dpStart : Option (BitVec 8) := none
  /-- a datapath slice has started since the last reset -/
  dpAny : Bool := false
  dpAt : Nat := 0
  dpMask : PairMap := BitVec.allOnes 192
  dpFail : PairMap := 0
  flt : BitVec 7 := 0
  fltIe : BitVec 7 := 0
  failPage : BitVec 13 := 0
  failLoc : Word := 0
  /-- the two fuses of each transition -/
  fuse1 : Bool × Bool := (false, false)
  fuse2 : Bool × Bool := (false, false)
  fuse3 : Bool × Bool := (false, false)
  /-- the hallmark state as read at the last fuse read -/
  hallmark : BitVec 2 := 0
  tornFixed : Bool := false
  hmResult : BitVec 3 := 0
  hmOpen : Bool := false
  /-- when the update permit opened -/
  hmOpenAt : Nat := 0
  hmTmo : Word := 600
  hmEvt : BitVec 4 := 0
  hmEvtIe : BitVec 4 := 0
  /-- by keeper: the cycle in which it wrote the key (14 R604) -/
  hmKey : Tab (Option Nat) := []
  /-- an accepted advance: its TARGET (14 R605) -/
  hmTarget : Option (BitVec 2) := none
  /-- when it was accepted: a fuse is blown every 2 ms from then -/
  hmAdvAt : Nat := 0
  lkPresent : Bool := false
  k0Bad : Bool := false
  lkLen : W32 := 0
  lkSeq : Word := 0
  lkTs : Nat := 0
  lkKeeper : BitVec 2 := 0
  k0RstCnt : Word := 0
  lkFlt : BitVec 6 := 0
  lkFltIe : BitVec 6 := 0
  /-- the recovery sequencer is to reset K0 (14 R592) -/
  seqDue : Bool := false
  deriving DecidableEq, Repr

/-! ## The whole hub -/

/-- The units as they stood at the start of the BUS_CLK cycle in progress: what bits the hub has set in this cycle (00 R22) and
what was there before this cycle's writes (09 R398) are read from it. -/
structure Snap where
  keepers : Tab Keeper := []
  banks : Tab KicBank := []
  kic : Kic := {}
  fe : Fe := {}
  dc : Dc := {}
  ss : Ss := {}
  arb : Arb := {}
  rc : Rc := {}
  ce : Ce := {}
  io : Io := {}
  bc : Bc := {}
  tw : Tw := {}
  img : Img := {}
  pwr : Pwr := {}
  rst : Rst := {}
  integ : Integ := {}
  deriving DecidableEq, Repr

/-- The state of the hub. -/
structure State where
  variant : Variant := .thr6420
  /-- time since POR in BUS_CLK cycles of the nominal frequency; 32 to a period of the timestamp (log 1) -/
  now : Nat := 0
  /-- thousandths of the BUS_CLK cycles that have run since POR, the spread counted in (01 R34, R37) -/
  busM : Nat := 0
  /-- the units at the start of the present cycle -/
  was : Snap := {}
  /-- registers that firmware, and outputs and classes that lane 1, has written in cycle `fwAt` (00 R23, 07 R318), as keys -/
  fw : List Nat := []
  fwAt : Nat := 0
  /-- image RAM, working RAM and sample store: bytes by offset -/
  iram : Tab Byte := []
  wram : Tab Byte := []
  store : Tab Byte := []
  /-- offsets of the bytes whose parity fails (04 R168) -/
  iramBad : Tab Bool := []
  wramBad : Tab Bool := []
  storeBad : Tab Bool := []
  keepers : Tab Keeper := []
  banks : Tab KicBank := []
  kic : Kic := {}
  /-- KP_RELEASE.RUN of K1-K3 -/
  release : BitVec 4 := 1
  /-- KP_SEM0-15: the owner, if held -/
  sems : Tab (Option (Fin 4)) := []
  fe : Fe := {}
  pairFe : Tab PairFe := []
  pairDc : Tab PairDc := []
  dc : Dc := {}
  ss : Ss := {}
  arb : Arb := {}
  rc : Rc := {}
  ce : Ce := {}
  io : Io := {}
  bc : Bc := {}
  tw : Tw := {}
  img : Img := {}
  pwr : Pwr := {}
  rst : Rst := {}
  integ : Integ := {}
  /-- captured higher parts of wide values (00 R26), by requester and address -/
  wideCap : Tab Word := []
  /-- held lower parts of wide values (00 R27), by requester and address -/
  wideHold : Tab (Option Word) := []
  /-- MODEL: the word that each requester's last register read returned -/
  rdata : Tab Word := []
  /-- MODEL: free values used so far -/
  free : Nat := 0
  /-- MODEL: the commands that are waiting, first in, first out -/
  pending : List Instr := []
  deriving DecidableEq, Repr

/-- What stops the machine. No step of this hub raises one: every fault of the spec is an effect on the
state (a trap, a sticky bit, an error reply), so a run never stops by a fault. -/
inductive Fault where
  /-- Raised by no step. It would be safe. -/
  | halted
  deriving DecidableEq, Repr

/-- Why a command is turned away. -/
inductive Refusal where
  /-- Raised by Dispatch.lean alone, for a command that has no meaning yet. Safe. -/
  | notModelled (mnemonic : String)
  /-- Raised by a meaning whose operands are no command of the hub (WellFormed.lean says which). Safe. -/
  | illFormed (mnemonic : String)
  deriving DecidableEq, Repr

/-- The hub right after the release of a POR, at step 1 of the start-up sequence (12 R518): every register at its
reset value, K0's release bit 1, all memories 0 with good parity, the EEPROM erased, the straps low. -/
def State.reset : State := {}

end Sys2Proof.Machine
end

