-- ==== Sys2Proof/Machine/Tab.lean ====
section
/-! DEFINITION. The sparse table: reading and writing one number, in canonical form (numbers strictly rising, no entry
equal to what an unlisted number reads as). -/
namespace Sys2Proof.Machine

/-- What number `i` reads as, `d` where it is not listed. -/
def tget {α : Type} (d : α) : Tab α → Nat → α
  | [], _ => d
  | (k, v) :: t, i => if i = k then v else tget d t i

/-- The table without number `i`. -/
def tdel {α : Type} (t : Tab α) (i : Nat) : Tab α := t.filter (fun e => decide (e.1 ≠ i))

/-- The table with number `i`, which it does not list, in its place by number. -/
def tins {α : Type} : Tab α → Nat → α → Tab α
  | [], i, v => [(i, v)]
  | (k, w) :: t, i, v => if i < k then (i, v) :: (k, w) :: t else (k, w) :: tins t i v

/-- Write `v` at number `i`; writing `d` removes the entry. -/
def tput {α : Type} [DecidableEq α] (d : α) (t : Tab α) (i : Nat) (v : α) : Tab α :=
  if v = d then tdel t i else tins (tdel t i) i v

/-- Every listed number is at least `n`, the numbers rise strictly and no entry equals `d`. -/
def tabWfFrom {α : Type} [DecidableEq α] (d : α) : Nat → Tab α → Bool
  | _, [] => true
  | n, (k, v) :: t => decide (n ≤ k) && decide (v ≠ d) && tabWfFrom d (k + 1) t

/-- The canonical form. -/
def tabWf {α : Type} [DecidableEq α] (d : α) (t : Tab α) : Bool := tabWfFrom d 0 t

/-- Drop every entry that lies in the range of `n` numbers from `a`. -/
def tclear {α : Type} (t : Tab α) (a n : Nat) : Tab α := t.filter (fun e => decide (e.1 < a ∨ a + n ≤ e.1))

/-- The table of a list's entries from number `i` on. -/
def tabFrom {α : Type} [DecidableEq α] (d : α) : Nat → List α → Tab α
  | _, [] => []
  | i, v :: vs => if v = d then tabFrom d (i + 1) vs else (i, v) :: tabFrom d (i + 1) vs

end Sys2Proof.Machine
end

