-- ==== Sys2Proof/Machine/Ops.lean ====
section
/-! DEFINITION. The named operations on the state: bits and bitmaps, what a variant has, time, keepers, pairs, streams,
and the bytes and parity marks of the three memories. -/
namespace Sys2Proof.Machine

/-! ## Bits -/

/-- Bit `i` of `w`. -/
abbrev bitAt {n : Nat} (w : BitVec n) (i : Nat) : Bool := w.getLsbD i

/-- `w` with bit `i` set to `b`. -/
def setBitTo {n : Nat} (w : BitVec n) (i : Nat) (b : Bool) : BitVec n :=
  if b then w ||| (1#n <<< i) else w &&& ~~~(1#n <<< i)

/-- The field of `len` bits from bit `lo` of a number. -/
def fld (v lo len : Nat) : Nat := v / 2 ^ lo % 2 ^ len

/-- A Bool as a number. -/
def b2n (b : Bool) : Nat := if b then 1 else 0

/-- Word `i` of a bitmap (02 R107). -/
def mapWord {n : Nat} (m : BitVec n) (i : Nat) : Nat := m.toNat / 2 ^ (16 * i) % 65536

/-- A bitmap with word `i` replaced. -/
def setMapWord {n : Nat} (m : BitVec n) (i v : Nat) : BitVec n :=
  BitVec.ofNat n (m.toNat - mapWord m i * 2 ^ (16 * i) + v % 65536 * 2 ^ (16 * i))

/-- A write of 1 clears: the bitmap after a W1C write of `v` to word `i` (00 R17). -/
def clearMapWord {n : Nat} (m : BitVec n) (i v : Nat) : BitVec n :=
  m &&& ~~~(BitVec.ofNat n (v % 65536 * 2 ^ (16 * i)))

/-- A W1C register after a write (00 R17). -/
def w1c {n : Nat} (r : BitVec n) (v : Nat) : BitVec n := r &&& ~~~(BitVec.ofNat n v)

/-- A W1C flag at bit `i` after a write of `v`. -/
def w1cBit (b : Bool) (v i : Nat) : Bool := b && !(v.testBit i)

/-- The counter plus `k`, saturating at its largest value (00 R24). -/
def satAdd {n : Nat} (c : BitVec n) (k : Nat) : BitVec n := BitVec.ofNat n (min (c.toNat + k) (2 ^ n - 1))

/-- Part `i` of a value wider than 16 bits (00 R25). -/
def part (v i : Nat) : Nat := v / 2 ^ (16 * i) % 65536

/-- An integer clamped to a range. -/
def clampInt (lo hi v : Int) : Int := if v < lo then lo else if hi < v then hi else v

/-- A signed value saturated to 16 bits. -/
def sat16 (v : Int) : Word := BitVec.ofInt 16 (clampInt (-32768) 32767 v)

/-- A list entry, or the default beyond its end. -/
def nth {α : Type} (d : α) (l : List α) (i : Nat) : α := l.getD i d

/-! ## What a variant has (01 R48) -/

def nPods (s : State) : Nat := match s.variant with | .thr6420 => 32 | .thr6412 => 16 | .thr6404 => 8
def nPairs (s : State) : Nat := 6 * nPods s
def nBanks (s : State) : Nat := match s.variant with | .thr6420 => 16 | .thr6412 => 8 | .thr6404 => 4
def nPages (s : State) : Nat := 512 * nBanks s
def nKeepers (s : State) : Nat := match s.variant with | .thr6420 => 4 | .thr6412 => 4 | .thr6404 => 2
def nPorts (s : State) : Nat := match s.variant with | .thr6420 => 16 | .thr6412 => 8 | .thr6404 => 0
def nVouts (s : State) : Nat := match s.variant with | .thr6420 => 16 | .thr6412 => 8 | .thr6404 => 0
def nLoops (s : State) : Nat := match s.variant with | .thr6420 => 8 | .thr6412 => 0 | .thr6404 => 0
def nLines (s : State) : Nat := match s.variant with | .thr6420 => 32 | .thr6412 => 32 | .thr6404 => 16

/-- The capability words (01 R64). -/
def capWord (v : Variant) (i : Nat) : Nat :=
  match v, i with
  | .thr6420, 0 => 0x005A
  | .thr6420, 1 => 0x20C0
  | .thr6420, 2 => 0x0010
  | .thr6420, 3 => 0x000F
  | .thr6412, 0 => 0x0045
  | .thr6412, 1 => 0x1060
  | .thr6412, 2 => 0x0008
  | .thr6412, 3 => 0x000F
  | .thr6404, 0 => 0x0020
  | .thr6404, 1 => 0x0830
  | .thr6404, 2 => 0x0004
  | .thr6404, 3 => 0x0003
  | _, _ => 0

/-- The bitmap of the present pairs. -/
def pairMask (s : State) : PairMap := BitVec.ofNat 192 (2 ^ nPairs s - 1)

/-! ## Table entries by their own defaults -/

def State.keeper (s : State) (k : Nat) : Keeper := tget {} s.keepers k
def State.setKeeper (s : State) (k : Nat) (v : Keeper) : State := { s with keepers := tput {} s.keepers k v }
def State.bank (s : State) (k : Nat) : KicBank := tget {} s.banks k
def State.setBank (s : State) (k : Nat) (v : KicBank) : State := { s with banks := tput {} s.banks k v }
def State.pfe (s : State) (p : Nat) : PairFe := tget {} s.pairFe p
def State.setPfe (s : State) (p : Nat) (v : PairFe) : State := { s with pairFe := tput {} s.pairFe p v }
def State.pdc (s : State) (p : Nat) : PairDc := tget {} s.pairDc p
def State.setPdc (s : State) (p : Nat) (v : PairDc) : State := { s with pairDc := tput {} s.pairDc p v }
def State.strm (s : State) (n : Nat) : Stream := tget {} s.ss.streams n
def State.setStrm (s : State) (n : Nat) (v : Stream) : State :=
  { s with ss := { s.ss with streams := tput {} s.ss.streams n v } }
def State.agrp (s : State) (g : Nat) : ArbGroup := tget {} s.arb.groups g
def State.setAgrp (s : State) (g : Nat) (v : ArbGroup) : State :=
  { s with arb := { s.arb with groups := tput {} s.arb.groups g v } }
def State.pod (s : State) (p : Nat) : Pod := tget {} s.rc.pods p
def State.setPod (s : State) (p : Nat) (v : Pod) : State := { s with rc := { s.rc with pods := tput {} s.rc.pods p v } }
def State.port (s : State) (p : Nat) : Port := tget {} s.io.ports p
def State.setPort (s : State) (p : Nat) (v : Port) : State := { s with io := { s.io with ports := tput {} s.io.ports p v } }
def State.lout (s : State) (n : Nat) : LoopOut := tget {} s.io.loops n
def State.setLout (s : State) (n : Nat) (v : LoopOut) : State := { s with io := { s.io with loops := tput {} s.io.loops n v } }
def State.chm (s : State) (i : Nat) : Inst := tget {} s.ce.insts i
def State.setChm (s : State) (i : Nat) (v : Inst) : State := { s with ce := { s.ce with insts := tput {} s.ce.insts i v } }

/-! ## Pages (04 R166) -/

/-- The state of a page after a POR: 0-15 LOCKET, beyond the store ABSENT, others FREE (04 R167). -/
def pageDefault (s : State) (p : Nat) : Page :=
  if p < 16 then ⟨.locket, 0⟩ else if p < nPages s then ⟨.free, 0⟩ else ⟨.absent, 0⟩
def State.page (s : State) (p : Nat) : Page := tget (pageDefault s p) s.ss.pages p
def State.setPage (s : State) (p : Nat) (v : Page) : State :=
  { s with ss := { s.ss with pages := tput (pageDefault s p) s.ss.pages p v } }

/-- Bank, bank group of a page, and the row of a word of it (04 R164). -/
def pageBank (s : State) (p : Nat) : Nat := p % nBanks s
def pageGroup (s : State) (p : Nat) : Nat := pageBank s p % 4
def wordRow (s : State) (p w : Nat) : Nat := p / nBanks s * 4 + w / 512

/-! ## Time (13 R540): the timestamp counts FE_CLK periods of 32 nominal BUS_CLK cycles (01 R32; log 1) -/

/-- The number of the BUS_CLK cycle in progress, at every spread depth (01 R37). -/
def State.cyc (s : State) : Nat := s.busM / 1000

/-- The 52-bit extended timestamp E. -/
def State.e (s : State) : Nat := s.now / 32 % 2 ^ 52
/-- The 48-bit timestamp. -/
def State.ts (s : State) : Nat := s.now / 32 % 2 ^ 48
/-- The epoch. -/
def State.epoch (s : State) : Nat := s.now / 32 / 2 ^ 48 % 16
/-- FE periods since POR, not wrapped: what instants are compared by. -/
def State.per (s : State) : Nat := s.now / 32

/-- The first multiple of `p` that is at least `n`. -/
def nextMul (p n : Nat) : Nat := (n + (p - 1)) / p * p

/-! ## Memory bytes and parity marks (04 R168-R169) -/

/-- The three memories that hold bytes with parity. -/
inductive Mem where
  | iram
  | wram
  | store
  deriving DecidableEq, Repr

/-- What a byte that nothing has written reads as: 0 (13 R562; for working RAM log 5). -/
def memDefault : Byte := 0

def memBytes (m : Mem) (s : State) : Tab Byte := match m with | .iram => s.iram | .wram => s.wram | .store => s.store
def memMarks (m : Mem) (s : State) : Tab Bool := match m with | .iram => s.iramBad | .wram => s.wramBad | .store => s.storeBad

/-- The byte at an offset. -/
def getByte (m : Mem) (s : State) (a : Nat) : Byte := tget memDefault (memBytes m s) a
/-- The byte's parity fails. -/
def badByte (m : Mem) (s : State) (a : Nat) : Bool := tget false (memMarks m s) a

/-- Write a byte with fresh parity (04 R169). -/
def putByte (m : Mem) (s : State) (a : Nat) (b : Byte) : State :=
  match m with
  | .iram => { s with iram := tput memDefault s.iram a b, iramBad := tput false s.iramBad a false }
  | .wram => { s with wram := tput memDefault s.wram a b, wramBad := tput false s.wramBad a false }
  | .store => { s with store := tput memDefault s.store a b, storeBad := tput false s.storeBad a false }

/-- Mark a byte as failing parity, without changing it. -/
def markByte (m : Mem) (s : State) (a : Nat) : State :=
  match m with
  | .iram => { s with iramBad := tput false s.iramBad a true }
  | .wram => { s with wramBad := tput false s.wramBad a true }
  | .store => { s with storeBad := tput false s.storeBad a true }

/-- A little-endian value of `n` bytes (00 R9, 04 R165). -/
def getLE (m : Mem) (s : State) (a : Nat) : Nat → Nat
  | 0 => 0
  | n + 1 => (getByte m s a).toNat + 256 * getLE m s (a + 1) n
/-- One of `n` bytes fails its parity. -/
def badLE (m : Mem) (s : State) (a : Nat) : Nat → Bool
  | 0 => false
  | n + 1 => badByte m s a || badLE m s (a + 1) n
/-- Write bytes at consecutive offsets. -/
def putBytes (m : Mem) (s : State) (a : Nat) : List Byte → State
  | [] => s
  | b :: bs => putBytes m (putByte m s a b) (a + 1) bs
/-- The `n` low bytes of a value, least significant first. -/
def leBytes (v : Nat) : Nat → List Byte
  | 0 => []
  | n + 1 => BitVec.ofNat 8 v :: leBytes (v / 256) n
/-- Write a little-endian value of `n` bytes. -/
def putLE (m : Mem) (s : State) (a v n : Nat) : State := putBytes m s a (leBytes v n)

/-- A word of the sample store by word number: 2,048 words to a page (04 R164). -/
def storeWord (s : State) (w : Nat) : Word := BitVec.ofNat 16 (getLE .store s (2 * w) 2)
/-- The word is poisoned. -/
def storePois (s : State) (w : Nat) : Bool := badLE .store s (2 * w) 2
/-- Write a word of the sample store. -/
def putStoreWord (s : State) (w : Nat) (v : Word) : State := putLE .store s (2 * w) v.toNat 2

/-! ## The order in which records are complete and GAP records fall due (04 R177, R179) -/

/-- The next place in the order, and the state after it is taken. Places are 32 apart: frames that are complete in one cycle
stand in one place, in ascending port order (09 R401). -/
def State.takeOrd (s : State) : Nat × State := (32 * s.ss.ord, { s with ss := { s.ss with ord := s.ss.ord + 1 } })

/-! ## BIST flags (14 R610) -/

/-- Bit `b` of BIST_FLT is set. -/
def bistFlag (s : State) (b : Nat) : State := { s with integ := { s.integ with flt := setBitTo s.integ.flt b true } }

/-! ## Two parties in one cycle (00 R22, R23) -/

/-- The units as they stand, for the cycle that begins. -/
def State.snap (s : State) : Snap :=
  { keepers := s.keepers, banks := s.banks, kic := s.kic, fe := s.fe, dc := s.dc, ss := s.ss, arb := s.arb, rc := s.rc, ce := s.ce,
    io := s.io, bc := s.bc, tw := s.tw, img := s.img, pwr := s.pwr, rst := s.rst, integ := s.integ }

/-- The key of a register that the hub updates: block, offset, and the instance that a select register names. -/
def fwKey (blk off inst : Nat) : Nat := inst * 2 ^ 20 + blk * 4096 + off

/-- Firmware has written the register in this cycle: its value stands against an update of the hub (00 R23). -/
def State.fwWrote (s : State) (blk off : Nat) (inst : Nat := 0) : Bool :=
  s.fwAt == s.cyc && s.fw.any (fun k => k == fwKey blk off inst)

/-- The key is remembered for this cycle. -/
def State.fwMark (s : State) (blk off : Nat) (inst : Nat := 0) : State :=
  { s with fw := fwKey blk off inst :: (if s.fwAt = s.cyc then s.fw else []), fwAt := s.cyc }

/-- A counter of the hub plus `k` (00 R24), unless firmware has written it in this cycle (00 R23). -/
def bump {n : Nat} (s : State) (blk off : Nat) (c : BitVec n) (k : Nat) (inst : Nat := 0) : BitVec n :=
  if s.fwWrote blk off inst then c else satAdd c k

/-! ## Free values -/

/-- The next free value's number, used once. -/
def State.nextFree (s : State) : State := { s with free := s.free + 1 }

end Sys2Proof.Machine
end

