-- ==== Sys2Proof/Machine/Flags.lean ====
section
/-! DEFINITION. The inputs of the interrupt controller's sources: level sources computed from the units' sticky and
enable bits (08 R380, R381 and the rule of each chapter that defines an input). -/
namespace Sys2Proof.Machine

/-- A sticky bit and its enable bit are both 1. -/
def anyAnd {n : Nat} (a b : BitVec n) : Bool := a &&& b != 0

/-- FE_FAULT (02 R90). -/
def lvlFeFault (s : State) : Bool := anyAnd s.fe.faultIe (s.fe.openStk ||| s.fe.shortStk)
/-- DC_CHG (03 R161). -/
def lvlDcChg (s : State) : Bool := anyAnd s.dc.doneIe s.dc.doneStk
/-- SS_WM (04 R194). -/
def lvlSsWm (s : State) : Bool := s.ss.streams.any (fun e => e.2.wmHit && e.2.wmIe)
/-- SS_FAULT (04 R218). -/
def lvlSsFault (s : State) : Bool := anyAnd s.ss.flt s.ss.fltIe
/-- ARB_CUT (05 R250). -/
def lvlArbCut (s : State) : Bool := anyAnd s.arb.block s.arb.cutIe
/-- RC_FAULT (06 R280). -/
def lvlRcFault (s : State) : Bool := anyAnd s.rc.flt s.rc.fltIe
/-- CE_FAULT (07 R336). -/
def lvlCeFault (s : State) : Bool := anyAnd s.ce.flt s.ce.fltIe
/-- CE_SIGn (07 R336). -/
def lvlCeSig (s : State) (n : Nat) : Bool := bitAt (s.ce.sigStk &&& s.ce.sigIe) n
/-- IP_PORTn (09 R420). -/
def lvlIpPort (s : State) (n : Nat) : Bool := anyAnd (s.port n).stat (s.port n).ie
/-- IL_FAULT (09 R420). -/
def lvlIlFault (s : State) : Bool := anyAnd (s.io.ilMis ||| s.io.ilPois) s.io.ilIe
/-- VO_FAULT (09 R420). -/
def lvlVoFault (s : State) : Bool := (s.io.voRefLow && s.io.voRefIe) || anyAnd s.io.voPois s.io.voPoisIe
/-- LO_FAULT (09 R420). -/
def lvlLoFault (s : State) : Bool :=
  s.io.loops.any (fun e => (e.2.compliance && bitAt e.2.ie 0) || (e.2.pois && bitAt e.2.ie 1) || (e.2.opn && bitAt e.2.ie 2))
/-- BC_RX, BC_FAULT, BC_WAKE (10 R462). -/
def lvlBcRx (s : State) : Bool := bitAt (s.bc.stat &&& s.bc.ie) 0
def lvlBcFault (s : State) : Bool := s.bc.stat &&& s.bc.ie &&& 0x66#7 != 0
def lvlBcWake (s : State) : Bool := bitAt (s.bc.stat &&& s.bc.ie) 3
/-- TW_RX, TW_FAULT (11 R493). -/
def lvlTwRx (s : State) : Bool := bitAt (s.tw.stat &&& s.tw.ie) 0
def lvlTwFault (s : State) : Bool := s.tw.stat &&& s.tw.ie &&& 0x3E#6 != 0
/-- IMG_DONE, IMG_FAULT (12 R532). -/
def lvlImgDone (s : State) : Bool := bitAt (s.img.flt &&& s.img.fltIe) 0
def lvlImgFault (s : State) : Bool := s.img.flt &&& s.img.fltIe &&& 0x3E#6 != 0
/-- PWR_STATE, RST_EVENT, CLK_FAULT (13 R567). -/
def lvlPwrState (s : State) : Bool := anyAnd s.pwr.evt s.pwr.evtIe
def lvlRstEvent (s : State) : Bool := s.rst.warm && s.rst.ie
def lvlClkFault (s : State) : Bool := anyAnd s.pwr.clkFlt s.pwr.clkFltIe
/-- BIST_SLICE, BIST_FAULT, HM_EVENT, LK_EVENT (14 R613). -/
def lvlBistSlice (s : State) : Bool := s.integ.memSlice.isSome || s.integ.dpSlice.isSome
def lvlBistFault (s : State) : Bool := anyAnd s.integ.flt s.integ.fltIe
def lvlHmEvent (s : State) : Bool := anyAnd s.integ.hmEvt s.integ.hmEvtIe
def lvlLkEvent (s : State) : Bool := anyAnd s.integ.lkFlt s.integ.lkFltIe

/-- The input level of shared source `n` (08 R381); a source with no input reads low. -/
def sharedLevel (s : State) (n : Nat) : Bool :=
  if 8 ≤ n ∧ n < 16 then lvlCeSig s (n - 8)
  else if 16 ≤ n ∧ n < 32 then lvlIpPort s (n - 16)
  else if 65 ≤ n ∧ n < 69 then bitAt s.pwr.wakeBalls (n - 65)
  else match n with
    | 0 => lvlFeFault s
    | 1 => lvlDcChg s
    | 2 => lvlSsWm s
    | 3 => lvlSsFault s
    | 4 => lvlArbCut s
    | 5 => lvlRcFault s
    | 6 => lvlCeFault s
    | 32 => lvlIlFault s
    | 33 => lvlVoFault s
    | 34 => lvlLoFault s
    | 40 => lvlBcRx s
    | 41 => lvlBcFault s
    | 42 => lvlBcWake s
    | 48 => lvlTwRx s
    | 49 => lvlTwFault s
    | 56 => lvlImgDone s
    | 57 => lvlImgFault s
    | 64 => s.pwr.pfwLive
    | 69 => lvlPwrState s
    | 72 => lvlRstEvent s
    | 80 => lvlBistSlice s
    | 81 => lvlBistFault s
    | 88 => lvlHmEvent s
    | 96 => lvlLkEvent s
    | 104 => lvlClkFault s
    | _ => false

/-- Shared sources that have an input (08 R381). -/
def sharedInputs : List Nat :=
  [0, 1, 2, 3, 4, 5, 6] ++ [8, 9, 10, 11, 12, 13, 14, 15] ++
  [16, 17, 18, 19, 20, 21, 22, 23, 24, 25, 26, 27, 28, 29, 30, 31] ++ [32, 33, 34, 40, 41, 42, 48, 49, 56, 57] ++
  [64, 65, 66, 67, 68, 69, 72, 80, 81, 88, 96, 104]

/-- Sources that the watch can sense in SLEEP (08 R378, R381). -/
def sharedAon (n : Nat) : Bool := n == 42 || (64 ≤ n && n ≤ 68)

/-- The input level of private source `p` of keeper `k` (08 R380). -/
def privLevel (s : State) (k p : Nat) : Bool :=
  match p with
  | 0 => (s.keeper k).wdtWarn
  | 1 => (s.keeper k).peerRst
  | 2 => (s.keeper k).absentHit
  | 3 => (s.bank k).freezeTmo
  | 4 => bitAt (s.bank k).bells 0
  | 5 => bitAt (s.bank k).bells 1
  | 6 => bitAt (s.bank k).bells 2
  | 7 => bitAt (s.bank k).bells 3
  | _ => false

/-- A private source that has an input (08 R380). -/
def privHasInput (p : Nat) : Bool := p < 8

/-! ## The notice words and the alert latch (10 R450; 11 R487, R488) -/

/-- Any pair is OPEN or SHORT (02 R104). -/
def anyPairFault (s : State) : Bool := s.pairFe.any (fun e => e.2.st == .opn || e.2.st == .short)

/-- Bits 0-4 of the notice words (10 R450, 11 R487). -/
def noticeLive (s : State) : Nat :=
  b2n s.integ.safe + b2n (s.ss.streams.any (fun e => e.2.wmHit)) * 2 + b2n (anyPairFault s) * 4 +
  b2n (s.io.loops.any (fun e => e.2.compliance)) * 8 + b2n s.integ.lkPresent * 16

/-- TW_NOTICE (11 R487). -/
def twNotice (s : State) : Nat := noticeLive s + b2n s.tw.resetSince * 32 + s.tw.noticeFw.toNat * 256
/-- TW_NOTICE AND TW_ALERT_MASK. -/
def twMasked (s : State) : Word := BitVec.ofNat 16 (twNotice s) &&& s.tw.alertMask

/-- The latch is set by a masked bit that has risen since the last look, and released when no masked bit remains, but in SAFE
state (11 R488, 14 R574). -/
def twAlertOn (s : State) : Bool :=
  (s.tw.alert && (s.integ.safe || twMasked s != 0)) || (twMasked s &&& ~~~s.tw.alertSeen) != 0

/-- The latch and the masked bits are settled: a bit that has fallen counts as 0 before its next rise. -/
def twLatch (s : State) : State := { s with tw := { s.tw with alert := twAlertOn s, alertSeen := twMasked s } }

/-- KP_MTIME: the extended timestamp (08 R353). -/
def mtime (s : State) : Nat := s.e

/-- mip.MTIP of a keeper (08 R354). -/
def mtip (s : State) (k : Nat) : Bool := (s.keeper k).mtimecmp.toNat ≤ mtime s

end Sys2Proof.Machine
end

