-- ==== Sys2Proof/Machine/Kic.lean ====
section
/-! DEFINITION. The interrupt controller: sensing, delivery, claims, completions, freezes and its registers (08 R361-R383). -/
namespace Sys2Proof.Machine

/-! ## Sensing -/

/-- An input sets its pending bit in a cycle (08 R363): sensing mode, level in the previous cycle, level now. -/
def senseHit (mode : Nat) (was now : Bool) : Bool :=
  match mode with
  | 0 => now
  | 1 => now && !was
  | 2 => !now && was
  | _ => now != was

/-- The ID of a shared source (08 R361). -/
def sharedId (n : Nat) : BitVec 10 := BitVec.ofNat 10 (0x100 + n)

/-- The source with this ID is in service: its ID is on a keeper's stack (08 R367); a private ID counts on its own keeper's. -/
def sharedInService (s : State) (n : Nat) : Bool :=
  (List.range 4).any (fun k => (s.bank k).stack.any (fun e => e.id == sharedId n))
def privInService (s : State) (k p : Nat) : Bool := (s.bank k).stack.any (fun e => e.id == BitVec.ofNat 10 p)

/-- Bit n of KIC_FREEZE. -/
def frozen (s : State) (k : Nat) : Bool := (s.bank k).freezeAt.isSome
/-- Any FREEZE bit is 1. -/
def anyFrozen (s : State) : Bool := (List.range 4).any (frozen s)

def scfgSense (w : Word) : Nat := fld w.toNat 4 2
def scfgPrio (w : Word) : Nat := fld w.toNat 0 4
def scfgTarget (w : Word) : Nat := fld w.toNat 8 2

/-- One cycle of a shared source with its input at `l` (08 R363, R367, R372). -/
def senseShared (s : State) (n : Nat) (l : Bool) : State :=
  let k := s.kic
  let hit := senseHit (scfgSense (tget 0 k.scfg n)) (bitAt k.sin n) l && !sharedInService s n
  let k := { k with sin := setBitTo k.sin n l }
  let k := if !hit then k
    else if anyFrozen s then { k with sheld := setBitTo k.sheld n true }
    else { k with spend := setBitTo k.spend n true }
  { s with kic := k }

/-- One cycle of a private source. -/
def sensePriv (s : State) (k p : Nat) (l : Bool) : State :=
  let b := s.bank k
  let hit := senseHit (scfgSense (tget 0 b.pcfg p)) (bitAt b.pin p) l && !privInService s k p
  let b := { b with pin := setBitTo b.pin p l }
  let b := if !hit then b
    else if frozen s k then { b with pheld := setBitTo b.pheld p true }
    else { b with ppend := setBitTo b.ppend p true }
  s.setBank k b

/-- Held-back sets are applied in the cycle after the last FREEZE bit concerned returned to 0 (08 R372). -/
def applyHeld (s : State) : State :=
  let s := if anyFrozen s then s
    else { s with kic := { s.kic with spend := s.kic.spend ||| s.kic.sheld, sheld := 0 } }
  (List.range 4).foldl (fun s k =>
    let b := s.bank k
    if frozen s k then s else s.setBank k { b with ppend := b.ppend ||| b.pheld, pheld := 0 }) s

/-- One BUS_CLK cycle of the controller: every input is sensed at its present level, and doorbell pulses end. -/
def kicCycle (s : State) : State :=
  let s := applyHeld s
  let s := sharedInputs.foldl (fun t n => senseShared t n (sharedLevel s n)) s
  (List.range (nKeepers s)).foldl (fun t k =>
    let t := (List.range 8).foldl (fun t p => sensePriv t k p (privLevel t k p)) t
    t.setBank k { t.bank k with bells := 0 }) s

/-! ## Delivery -/

/-- The running level of a keeper: the priority recorded innermost, 0 with an empty stack (08 R366). -/
def runLevel (b : KicBank) : Nat := match b.stack with | [] => 0 | e :: _ => e.prio.toNat

/-- A source of priority `prio` may pre-empt (08 R366); SPLIT 5-7 act as 4 (08 R383). -/
def mayPreempt (b : KicBank) (prio : Nat) : Bool :=
  if b.group then
    let sh := 4 - min b.split.toNat 4
    match b.stack with
    | [] => true
    | e :: _ => e.prio.toNat / 2 ^ sh < prio / 2 ^ sh
  else runLevel b < prio

/-- Priority of a private, a shared source for keeper `k` if it is eligible (08 R365), else 0. A source in service that is pended
by software is delivered once it has been completed (08 R369). -/
def privPrio (s : State) (k p : Nat) : Nat :=
  let b := s.bank k
  let pr := scfgPrio (tget 0 b.pcfg p)
  if bitAt b.ppend p && !bitAt b.pmask p && !privInService s k p && b.thresh.toNat < pr then pr else 0
def sharedPrio (s : State) (k n : Nat) : Nat :=
  let w := tget 0 s.kic.scfg n
  if bitAt s.kic.spend n && !bitAt s.kic.smask n && !sharedInService s n && scfgTarget w == k && (s.bank k).thresh.toNat < scfgPrio w
  then scfgPrio w else 0

/-- The better of two candidates: the higher priority, the earlier (lower ID) on a tie. -/
def better (a b : Nat × Nat) : Nat × Nat := if a.2 < b.2 then b else a

/-- The eligible source of highest priority as (ID, priority); priority 0 if there is none. -/
def topEligible (s : State) (k : Nat) : Nat × Nat :=
  let a := (List.range 32).foldl (fun acc p => better acc (p, privPrio s k p)) (0x3FF, 0)
  (List.range 256).foldl (fun acc n => better acc (0x100 + n, sharedPrio s k n)) a

/-- The source that a claim would return now (08 R367). -/
def topSource (s : State) (k : Nat) : Option (Nat × Nat) :=
  let t := topEligible s k
  if t.2 = 0 then none else if mayPreempt (s.bank k) t.2 then some t else none

/-- mip.MEIP of a keeper (08 R366). -/
def meip (s : State) (k : Nat) : Bool := (topSource s k).isSome

/-- Clear the pending bit of a source as seen from keeper `k`. -/
def clearPending (s : State) (k id : Nat) : State :=
  if id < 0x100 then s.setBank k { s.bank k with ppend := setBitTo (s.bank k).ppend id false }
  else { s with kic := { s.kic with spend := setBitTo s.kic.spend (id - 0x100) false } }

/-- A claim that completes (08 R367): the ID returned, and the state after it. -/
def claimNow (s : State) (k : Nat) : Nat × State :=
  match topSource s k with
  | none => (0x3FF, s)
  | some (id, pr) =>
    let s := clearPending s k id
    let b := s.bank k
    (id, s.setBank k { b with stack := ⟨BitVec.ofNat 10 id, BitVec.ofNat 4 pr⟩ :: b.stack })

/-- A claim read of this bank stalls (08 R373): its own FREEZE bit, or any bit for a claim of a shared source. -/
def claimStalls (s : State) (k : Nat) : Bool :=
  frozen s k || (anyFrozen s && (match topSource s k with | some (id, _) => 0x100 ≤ id | none => false))

/-- A write to KIC_Kn_COMPLETE (08 R368). -/
def kicCompleteW (s : State) (k : Nat) (id : BitVec 10) : State :=
  let b := s.bank k
  match b.stack with
  | e :: rest => if e.id = id then s.setBank k { b with stack := rest } else s.setBank k { b with complErr := true }
  | [] => s.setBank k { b with complErr := true }

/-- A keeper's write of its own FREEZE bit (08 R372, R374). A bit that is 1 keeps the time at which it was set. -/
def kicFreezeW (s : State) (k : Nat) (on : Bool) : State :=
  let b := s.bank k
  s.setBank k { b with freezeAt := if on then some (b.freezeAt.getD s.cyc) else none }

/-! ## The watch and WFI (08 R377; 13 R546) -/

/-- The watch takes every source's present level as the one before the next that it senses. -/
def watchTakes (s : State) : State :=
  { s with kic := { s.kic with wsin := sharedInputs.foldl (fun w n => setBitTo w n (sharedLevel s n)) 0 } }

/-- An interrupt that mie enables is pending. -/
def wakes (s : State) (k : Nat) : Bool := (meip s k && (s.keeper k).meie) || (mtip s k && (s.keeper k).mtie)

/-- A keeper stalled in WFI leaves it when an interrupt that mie enables is pending. -/
def wfiLeave (s : State) (k : Nat) : State :=
  if (s.keeper k).wfi && wakes s k then s.setKeeper k { s.keeper k with wfi := false } else s

/-! ## Registers -/

/-- Word `w` of the present input levels (08 R382, R383). -/
def levelWord (level : Nat → Bool) (w : Nat) : Nat :=
  (List.range 16).foldl (fun a i => a + b2n (level (16 * w + i)) * 2 ^ i) 0

/-- The private bank's registers (08 R383). -/
def kicBankRead (s : State) (k off : Nat) : Nat :=
  let b := s.bank k
  if off < 0x40 then (tget 0 b.pcfg (off / 2)).toNat
  else match off with
    | 0x40 => mapWord b.ppend 0
    | 0x42 => mapWord b.ppend 1
    | 0x44 => mapWord b.pmask 0
    | 0x46 => mapWord b.pmask 1
    | 0x48 => levelWord (privLevel s k) 0
    | 0x4A => levelWord (privLevel s k) 1
    | 0x50 => b.split.toNat * 16 + b2n b.group
    | 0x52 => b.thresh.toNat
    | 0x54 => (match topSource s k with | some t => t.1 | none => 0x3FF)
    | 0x58 => (match b.stack with | [] => 0x3FF | e :: _ => e.id.toNat)
    | 0x5A => runLevel b * 256 + b.stack.length
    | 0x5C => (match topSource s k with | some t => t.1 | none => 0x3FF)
    | 0x5E => b2n b.freezeTmo * 2 + b2n b.complErr
    | _ => 0

def kicBankWrite (s : State) (k off v : Nat) : State :=
  let b := s.bank k
  if off < 0x40 then s.setBank k { b with pcfg := tput 0 b.pcfg (off / 2) (BitVec.ofNat 16 (v % 64)) }
  else match off with
    | 0x40 => s.setBank k { b with ppend := setMapWord b.ppend 0 v }
    | 0x42 => s.setBank k { b with ppend := setMapWord b.ppend 1 v }
    | 0x44 => s.setBank k { b with pmask := setMapWord b.pmask 0 v }
    | 0x46 => s.setBank k { b with pmask := setMapWord b.pmask 1 v }
    | 0x50 => s.setBank k { b with split := BitVec.ofNat 3 (fld v 4 3), group := v.testBit 0 }
    | 0x52 => s.setBank k { b with thresh := BitVec.ofNat 4 v }
    | 0x56 => kicCompleteW s k (BitVec.ofNat 10 v)
    | 0x5E => s.setBank k { b with freezeTmo := w1cBit b.freezeTmo v 1, complErr := w1cBit b.complErr v 0 }
    | _ => s

/-- The KIC_FREEZE word. -/
def freezeWord (s : State) : Nat := b2n (frozen s 0) + 2 * b2n (frozen s 1) + 4 * b2n (frozen s 2) + 8 * b2n (frozen s 3)

/-- The KIC_ block as read (08 R382). A claim's effect is `claimNow`. -/
def kicRead (s : State) (off : Nat) : Nat :=
  let k := s.kic
  if off < 0x200 then (tget 0 k.scfg (off / 2)).toNat
  else if off < 0x220 then mapWord k.spend ((off - 0x200) / 2)
  else if off < 0x240 then mapWord k.smask ((off - 0x220) / 2)
  else if off < 0x260 then levelWord (sharedLevel s) ((off - 0x240) / 2)
  else if off = 0x300 then freezeWord s
  else if 0x400 ≤ off ∧ off < 0x800 then kicBankRead s ((off - 0x400) / 0x100) (off % 0x100)
  else if 0x800 ≤ off ∧ off < 0x820 then (tget 0 k.watch ((off - 0x800) / 2)).toNat
  else if off = 0x820 then k.watchHit.toNat
  else 0

/-- A write to the KIC_ block; `wk` is the writing keeper, if one writes. -/
def kicWrite (s : State) (wk : Option Nat) (off v : Nat) : State :=
  let k := s.kic
  if off < 0x200 then { s with kic := { k with scfg := tput 0 k.scfg (off / 2) (BitVec.ofNat 16 (v &&& 0x33F)) } }
  else if off < 0x220 then { s with kic := { k with spend := setMapWord k.spend ((off - 0x200) / 2) v } }
  else if off < 0x240 then { s with kic := { k with smask := setMapWord k.smask ((off - 0x220) / 2) v } }
  else if off = 0x300 then (match wk with | some n => kicFreezeW s n (v.testBit n) | none => s)
  else if 0x400 ≤ off ∧ off < 0x800 then kicBankWrite s ((off - 0x400) / 0x100) (off % 0x100) v
  else if 0x800 ≤ off ∧ off < 0x820 then
    { s with kic := { k with watch := tput 0 k.watch ((off - 0x800) / 2) (BitVec.ofNat 16 (v &&& 0x80FF)) } }
  else if off = 0x820 then { s with kic := { k with watchHit := w1c k.watchHit v } }
  else s

end Sys2Proof.Machine
end

