-- ==== Sys2Proof/Machine/Time.lean ====
section
/-! DEFINITION. Time (13 R540, log 1): the passing of BUS_CLK cycles, and the instants that commands go to. -/
namespace Sys2Proof.Machine

/-- BUS_CLK and CORE_CLK run: the PLL is locked and the hub is not in SLEEP or held by a POR (13 R537, R549). -/
def busRuns (s : State) : Bool := s.pwr.pllLock && s.pwr.st != .sleep && !s.rst.porHeld

/-- FE_CLK runs: as BUS_CLK, both come from the PLL's domain (13 R537, R549). -/
def feRuns (s : State) : Bool := busRuns s

/-- The effect `t` of a unit that runs from BUS_CLK: nothing happens while it is stopped (13 R538, R544). -/
def onBus (s t : State) : State := if busRuns s then t else s

/-- The keepers' clocks run: not in DOZE, either (13 R548). -/
def keepersClocked (s : State) : Bool := busRuns s && s.pwr.st == .run

/-! ## The spread divider (01 R33-R37; 13 R539) -/

/-- The modulation period of 32 µs, in thousandths of nominal BUS_CLK cycles. -/
def modPeriod : Nat := 3145728

/-- The depth that a value of SSC gives, in half per cents: 3 acts as 2. -/
def sscDepth (v : BitVec 2) : Nat := min 2 v.toNat

/-- The frequency falls by the depth over the first half of a period and rises back over the second: thousandths of cycles that
run in the first `r` of one. -/
def modHalf (d r : Nat) : Nat := r - d * r * r / (200 * modPeriod)

/-- Thousandths of BUS_CLK cycles that run at depth `d` in `x` thousandths of a nominal cycle from a top on. -/
def modRun (d x : Nat) : Nat :=
  let full := modPeriod - d * modPeriod / 400
  let r := x % modPeriod
  x / modPeriod * full + if 2 * r ≤ modPeriod then modHalf d r else full - modHalf d (modPeriod - r)

/-- Thousandths of a nominal cycle from the last start of the clocks to `n`. -/
def modPhase (s : State) (n : Nat) : Nat := 1000 * (n - s.pwr.modAt)

/-- The next top of the modulation after now, as a phase. -/
def nextTop (s : State) : Nat := (modPhase s s.now / modPeriod + 1) * modPeriod

/-- The depth that is in force from the next top on. -/
def sscNext (s : State) : BitVec 2 := if s.pwr.ssc = 3 then 2 else s.pwr.ssc

/-- Thousandths of BUS_CLK cycles that run from now to `target`: a new depth takes effect at the next top. -/
def busBetween (s : State) (target : Nat) : Nat :=
  let a := modPhase s s.now
  let b := modPhase s target
  let top := min b (nextTop s)
  (modRun (sscDepth s.pwr.sscAct) top - modRun (sscDepth s.pwr.sscAct) a) +
  (modRun (sscDepth (sscNext s)) b - modRun (sscDepth (sscNext s)) top)

/-- The depth in force at `target`. -/
def sscAt (s : State) (target : Nat) : BitVec 2 := if nextTop s ≤ modPhase s target then sscNext s else s.pwr.sscAct

/-- CORE_CLK and BUS_CLK start: the modulation begins a new period at its top, where a new depth takes effect. -/
def clocksStart (s : State) : State := { s with pwr := { s.pwr with modAt := s.now, sscAct := sscNext s } }

/-! ## Time passes -/

/-- mcycle over `d` CORE_CLK cycles (08 R340). -/
def countCycles (s : State) (d : Nat) : State :=
  if !keepersClocked s then s
  else (List.range (nKeepers s)).foldl (fun t k =>
    let kp := t.keeper k
    if kp.run && !kp.inhibitCy then t.setKeeper k { kp with mcycle := kp.mcycle + BitVec.ofNat 64 d } else t) s

/-- The epoch increments when the low 48 bits wrap (13 R541). -/
def wrapMark (s : State) (target : Nat) : State :=
  if s.now / 32 / 2 ^ 48 < target / 32 / 2 ^ 48 then { s with pwr := { s.pwr with clkFlt := s.pwr.clkFlt ||| 2 } } else s

/-- `d` BUS_CLK cycles of the interrupt controller: after the second one nothing changes any more. -/
def kicCycles (s : State) (d : Nat) : State := if d = 0 then s else if d = 1 then kicCycle s else kicCycle (kicCycle s)

/-- Keepers that are clocked and are not held for a SLEEP entry leave WFI on a pending interrupt (13 R546, R549). -/
def wfiLeaves (s : State) : State :=
  if !keepersClocked s || s.pwr.entering then s else (List.range (nKeepers s)).foldl wfiLeave s

/-- The clocks run from now to `target`: the interrupt controller senses its inputs, mcycle counts two CORE_CLK cycles to each of
BUS_CLK (01 R32), and a new spread depth takes effect at a top. -/
def clocksRun (s : State) (target : Nat) : State :=
  if !busRuns s then s
  else
    let ends := s.busM + busBetween s target
    let act := sscAt s target
    let t := countCycles (kicCycles s (ends / 1000 - s.cyc)) (2 * ends / 1000 - 2 * s.busM / 1000)
    { t with busM := ends, pwr := { t.pwr with sscAct := act } }

/-- Time passes up to `target`: the alert latch follows what the cycle leaves (11 R488), the clocks run, and the units are
remembered as they stand when a new BUS_CLK cycle begins. -/
def passTime (s : State) (target : Nat) : State :=
  if target ≤ s.now then s
  else
    let t := wfiLeaves { wrapMark (clocksRun (twLatch s) target) target with now := target }
    if t.cyc = s.cyc && busRuns s then t else { t with was := t.snap }

/-- The time at which BUS_CLK cycle `c` begins, at the depths in force and asked for: the shortfall is made up in `fuel` steps,
each of which leaves at most a hundredth of it. -/
def cycTime (s : State) (c : Nat) : Nat → Nat → Nat
  | 0, t => t
  | fuel + 1, t =>
    let short := 1000 * c - (s.busM + busBetween s t)
    if short = 0 then t else cycTime s c fuel (t + (short + 999) / 1000)

/-- Time passes until BUS_CLK cycle `c` has begun; it never begins while BUS_CLK is stopped. -/
def passBus (s : State) (c : Nat) : State := if busRuns s then passTime s (cycTime s c 32 s.now) else s

/-- `n` BUS_CLK cycles pass. -/
def passCycles (s : State) (n : Nat) : State := passBus s (s.cyc + n)

/-- Time passes up to the start of FE period `e`. -/
def passTo (s : State) (e : Nat) : State := passTime s (32 * e)

/-- The first period from `n` on at which E is a multiple of `p`; E wraps after 2^52 periods (13 R542). -/
def nextMulE (p n : Nat) : Nat :=
  let b := n / 2 ^ 52 * 2 ^ 52
  min (b + nextMul p (n - b)) (b + 2 ^ 52)

/-- E is a multiple of `p` at period `t`. -/
def onInstant (t p : Nat) : Bool := t % 2 ^ 52 % p == 0

/-- The first instant at multiples of `p` that is at least `from_` and not past. -/
def nextInstant (s : State) (from_ p : Nat) : Nat :=
  nextMulE p (max from_ ((s.now + 31) / 32))

/-- One ms is 98,304 BUS_CLK cycles (01 R32). -/
def msCycles : Nat := 98304

/-- A moment has come. -/
def due (s : State) (at_ : Nat) : Bool := at_ ≤ s.now

/-- A BUS_CLK cycle has begun. -/
def dueCyc (s : State) (c : Nat) : Bool := c ≤ s.cyc

end Sys2Proof.Machine
end

