-- ==== Sys2Proof/Machine/Fe.lean ====
section
/-! DEFINITION. The front end: registers, measurements, pair states and their decisions (02). -/
namespace Sys2Proof.Machine

/-- Sixteen bits of a predicate on pair numbers, as word `w` of a bitmap. -/
def wordOf (f : Nat → Bool) (w : Nat) : Nat :=
  (List.range 16).foldl (fun acc i => acc + b2n (f (16 * w + i)) * 2 ^ i) 0

/-- The bitmap registers from 0x020 (02 R107): number of the map and word, if the offset is one of them. -/
def feMapAt (off : Nat) : Option (Nat × Nat) :=
  if 0x20 ≤ off ∧ off < 0x140 ∧ off % 0x20 < 0x18 then some (off / 0x20, off % 0x20 / 2) else none

/-- The FE_ block as read (02 R103-R109). -/
def feRead (s : State) (off : Nat) : Nat :=
  match feMapAt off with
  | some (m, w) =>
    (match m with
     | 1 => mapWord s.fe.pairEn w
     | 2 => mapWord s.fe.dch w
     | 3 => mapWord s.fe.dchNeg w
     | 4 => wordOf (fun p => (s.pfe p).st == .opn) w
     | 5 => wordOf (fun p => (s.pfe p).st == .short) w
     | 6 => mapWord s.fe.openStk w
     | 7 => mapWord s.fe.shortStk w
     | 8 => mapWord s.fe.ovrStk w
     | _ => mapWord s.fe.faultIe w)
  | none =>
    if 0x200 ≤ off ∧ off < 0x380 then (s.pfe ((off - 0x200) / 2)).iex.toNat
    else if 0x400 ≤ off ∧ off < 0x440 then (tget 0 s.fe.sensA ((off - 0x400) / 2)).toNat
    else if 0x440 ≤ off ∧ off < 0x480 then (tget 0 s.fe.sensG ((off - 0x440) / 2)).toNat
    else match off with
      | 0x000 => b2n s.fe.run
      | 0x002 => b2n (anyPairFault s) * 4 + s.ts / 128 % 2 * 2 + b2n s.fe.running
      | 0x004 => s.fe.deb.toNat
      | 0x006 => s.fe.vex.toNat
      | _ => 0

/-- A write to the FE_ block. What takes effect at the next swap instant is read there (02 R101, R102). -/
def feWrite (s : State) (off v : Nat) : State :=
  let f := s.fe
  let pm := pairMask s
  match feMapAt off with
  | some (m, w) =>
    let f := match m with
      | 1 => { f with pairEn := setMapWord f.pairEn w v &&& pm }
      | 2 => { f with dch := setMapWord f.dch w v &&& pm }
      | 3 => { f with dchNeg := setMapWord f.dchNeg w v &&& pm }
      | 6 => { f with openStk := clearMapWord f.openStk w v }
      | 7 => { f with shortStk := clearMapWord f.shortStk w v }
      | 8 => { f with ovrStk := clearMapWord f.ovrStk w v }
      | 9 => { f with faultIe := setMapWord f.faultIe w v &&& pm }
      | _ => f
    { s with fe := f }
  | none =>
    if 0x400 ≤ off ∧ off < 0x440 then { s with fe := { f with sensA := tput 0 f.sensA ((off - 0x400) / 2) (BitVec.ofNat 16 v) } }
    else if 0x440 ≤ off ∧ off < 0x480 then { s with fe := { f with sensG := tput 0 f.sensG ((off - 0x440) / 2) (BitVec.ofNat 16 v) } }
    else match off with
      | 0x000 => { s with fe := { f with run := v.testBit 0 } }
      | 0x004 => { s with fe := { f with deb := BitVec.ofNat 6 v } }
      | _ => s

/-- Registers of the FE_ block that serve only absent pairs or pods (01 R50). -/
def feAbsent (s : State) (off : Nat) : Bool :=
  match feMapAt off with
  | some (_, w) => nPairs s ≤ 16 * w
  | none =>
    if 0x200 ≤ off ∧ off < 0x380 then nPairs s ≤ (off - 0x200) / 2
    else if 0x400 ≤ off ∧ off < 0x480 then nPods s ≤ (off - 0x400) / 2 % 32
    else false

/-! ## Pair states (02 R83-R92) -/

/-- DEB as it acts (02 R105). -/
def debCount (s : State) : Nat := max 1 s.fe.deb.toNat

/-- The most that a measurement of the excitation current can show: the current is limited to 16 mA (02 R88), and a reading
is within 1 % and 5 µA (02 R83). -/
def iexMax : Nat := 16165

/-- The runs of a pair after a measurement of `c` µA, and the decision that it brings (02 R85, R86). -/
def feMeasure (deb : Nat) (pf : PairFe) (c0 : Nat) : PairFe :=
  let c := min c0 iexMax
  let pf := { pf with iex := BitVec.ofNat 16 c }
  match pf.st with
  | .off => pf
  | .ok =>
    let ro := if c < 20 then pf.runOpen + 1 else 0
    let rs := if 12000 < c then pf.runShort + 1 else 0
    { pf with runOpen := ro, runShort := rs,
              decide := if deb ≤ ro then some .opn else if deb ≤ rs then some .short else none }
  | .opn =>
    let r := if 30 ≤ c then pf.runBack + 1 else 0
    { pf with runBack := r, decide := if deb ≤ r then some .ok else none }
  | .short =>
    let r := if c ≤ 10000 then pf.runBack + 1 else 0
    { pf with runBack := r, decide := if deb ≤ r then some .ok else none }

/-- The pair is to be excited from the coming swap instant (02 R84, R101). -/
def feWanted (s : State) (p : Nat) : Bool := s.fe.run && bitAt s.fe.pairEn p

/-- One pair at the swap instant of period `t` (02 R85-R87, R94): measurement if the ended window has one, then the
change to or from OFF, then DC-HOLD. A change to OFF discards the decision. -/
def fePairSwap (s : State) (t p : Nat) (c : Option Nat) : PairFe :=
  let pf := s.pfe p
  let pf : PairFe := match c with
    | some c => if pf.st == .off then pf else feMeasure (debCount s) pf c
    | none => pf
  let pf := { pf with dch := bitAt s.fe.dch p, neg := bitAt s.fe.dchNeg p }
  if !feWanted s p then { pf with st := .off, runOpen := 0, runShort := 0, runBack := 0, decide := none, iex := 0 }
  else if pf.st == .off then
    { pf with st := .ok, runOpen := 0, runShort := 0, runBack := 0, decide := none, iex := 0, okFrom := t }
  else pf

/-- The decision of a pair carried out (02 R85, R89): its state, its counts and its sticky bit. -/
def feDecide (s : State) (p : Nat) : State :=
  let pf := s.pfe p
  match pf.decide with
  | none => s
  | some st =>
    let s := s.setPfe p { pf with st := st, decide := none, runOpen := 0, runShort := 0, runBack := 0,
                                  okFrom := if st == .ok then s.fe.lastSwap else pf.okFrom }
    match st with
    | .opn => { s with fe := { s.fe with openStk := setBitTo s.fe.openStk p true } }
    | .short => { s with fe := { s.fe with shortStk := setBitTo s.fe.shortStk p true } }
    | _ => s

/-- The excitation of pair `p` is positive in the half-phase that period `e` lies in (02 R72, R94). -/
def fePositive (s : State) (p e : Nat) : Bool :=
  let pf := s.pfe p
  if pf.dch then !pf.neg else e / 128 % 2 == 0

end Sys2Proof.Machine
end

