-- ==== Sys2Proof/Machine/Dc.lean ====
section
/-! DEFINITION. The decimation chain: CIC, coarse tap, halfband, FIR, TOUCHSTONE, flags, restarts, live changes (03). -/
namespace Sys2Proof.Machine

/-! ## Configuration words (03 R155) and the figures of a configuration (R125-R127) -/

def cwMode (w : Word) : Nat := fld w.toNat 0 3
def cwSet (w : Word) : Nat := fld w.toNat 3 5
def cwFade (w : Word) : Nat := 16 * 2 ^ fld w.toNat 12 2
def cwAlign (w : Word) : Bool := bitAt w 14
def isTouch (m : Nat) : Bool := 6 ≤ m

/-- Block factor of a preset (03 R125). -/
def blockOf : Nat → Nat
  | 0 => 1
  | 1 => 2
  | 2 => 6
  | 3 => 24
  | 4 => 120
  | _ => 480

/-- M of a TOUCHSTONE mode (03 R126). -/
def touchM (m : Nat) : Nat := if m = 7 then 1920 else 960

/-- Output period of a mode in FE_CLK periods (03 R124, R126). -/
def modePeriod (m : Nat) : Nat := if isTouch m then 64 * touchM m else 512 * blockOf m

/-- Delivery of a final sample after its instant (03 R127, R131). -/
def modeDelay (m : Nat) : Nat := if isTouch m then 67 else 35

/-- The first half of a set's coefficients; a set that is not loaded has 128 coefficients of 0 (03 R672). -/
def setHalf (s : State) (n : Nat) : List Int :=
  if n < s.dc.sets.toNat then tget [] s.dc.coefs n else List.replicate 64 0
/-- Tap count N (03 R133). -/
def setTaps (s : State) (n : Nat) : Nat := 2 * (setHalf s n).length

/-- Span and group delay of a configuration word (03 R125, R127). -/
def spanOf (s : State) (w : Word) : Nat :=
  let m := cwMode w
  if isTouch m then 189 + 64 * touchM m else 765 + 128 * blockOf m * setTaps s (cwSet w)
def delayOf (s : State) (w : Word) : Nat :=
  let m := cwMode w
  if isTouch m then 162 + 32 * touchM m else 418 + 64 * blockOf m * setTaps s (cwSet w)

/-- Division rounded to nearest, ties away from zero (03 R119, R129, R147). -/
def roundDiv (a : Int) (b : Nat) : Int :=
  if a < 0 then -(((2 * a.natAbs + b) / (2 * b) : Nat) : Int) else (((2 * a.natAbs + b) / (2 * b) : Nat) : Int)

/-! ## The CIC (03 R113-R117) -/

/-- One FE_CLK period: the demodulated bit enters the first integrator. -/
def cicPeriod (c : Cic) (plus : Bool) : Cic :=
  let i1 := if plus then c.i1 + 1 else c.i1 - 1
  let i2 := c.i2 + i1
  let i3 := c.i3 + i2
  { c with i1 := i1, i2 := i2, i3 := i3, i4 := c.i4 + i3 }

/-- 64 periods of modulator bits with the demodulator sign `pos`, earliest bit first (03 R115). -/
def cicRun (c : Cic) (pos : Bool) (bits : BitVec 64) : Cic :=
  (List.range 64).foldl (fun c i => cicPeriod c (bitAt bits i == pos)) c

/-- The combs at an output instant: y(t), and the registers. -/
def cicComb (c : Cic) : Int × Cic :=
  let a := c.i4 - c.c1
  let b := a - c.c2
  let d := b - c.c3
  let y := d - c.c4
  (y.toInt, { c with c1 := c.i4, c2 := a, c3 := b, c4 := d })

/-- A filter takes a CIC output: TOUCHSTONE sums it (03 R126). -/
def filtCic (f : Filt) (y : Int) : Filt := if isTouch (cwMode f.word) then { f with tacc := f.tacc + y } else f

/-- A pair at CIC output instant `t`. Outputs are discarded until S + 320 after a restart (03 R136). -/
def dcCic (pd : PairDc) (t : Nat) (pos : Bool) (bits : BitVec 64) : PairDc :=
  let r := cicComb (cicRun pd.cic pos bits)
  let pd := { pd with cic := r.2 }
  if t < pd.acceptFrom then pd
  else { pd with ys := (r.1 :: pd.ys).take 11, filt := filtCic pd.filt r.1,
                 change := pd.change.map (fun c => if c.running then { c with new := filtCic c.new r.1 } else c) }

/-! ## Coarse tap, halfband, block sums (03 R119, R122, R123) -/

def nthY (pd : PairDc) (k : Nat) : Int := nth 0 pd.ys k

/-- The rounded coarse value before saturation. -/
def coarseRaw (pd : PairDc) : Int := roundDiv (nthY pd 0 + nthY pd 1 + nthY pd 2 + nthY pd 3) 16384
def coarseSat (v : Int) : Int := clampInt (-2048) 2047 v

/-- H(t) over the last eleven CIC outputs. -/
def halfband (pd : PairDc) : Int :=
  3 * nthY pd 0 - 25 * nthY pd 2 + 150 * nthY pd 4 + 256 * nthY pd 5 + 150 * nthY pd 6 - 25 * nthY pd 8 + 3 * nthY pd 10

/-- A preset filter takes the halfband stream, `late` samples late, and forms block sums at multiples of 128 × B. -/
def filtHalf (f : Filt) (hs : List Int) (t late : Nat) : Filt :=
  let m := cwMode f.word
  if isTouch m then f
  else
    let acc := f.bacc + nth 0 hs late
    if onInstant t (128 * blockOf m) then { f with bacc := 0, bs := (acc :: f.bs).take 128 } else { f with bacc := acc }

/-- How late the old filter of a change reads (03 R153). -/
def oldLate (pd : PairDc) (t : Nat) : Nat :=
  match pd.change with
  | some c => (match c.glideFrom with | some g => if g ≤ t then c.glidePad else pd.filt.pad | none => pd.filt.pad)
  | none => pd.filt.pad

/-- The chain of a pair at swap instant `t`: coarse value and its saturation, halfband sample, block sums. -/
def dcSwap (pd : PairDc) (t : Nat) : PairDc × Bool :=
  let raw := coarseRaw pd
  let ok := pd.s0 + 512 ≤ t
  let hs := (halfband pd :: pd.hs).take 2049
  ({ pd with hs := hs, filt := filtHalf pd.filt hs t (oldLate pd t),
             change := pd.change.map (fun c => if c.running then { c with new := filtHalf c.new hs t c.new.pad } else c),
             coarseNow := if ok then some (t, coarseSat raw, 0) else none },
   ok && coarseSat raw != raw)

/-! ## Flags (03 R138, R139; 04 R185) -/

def flgFault : Byte := 1
def flgHold : Byte := 2
def flgRestart : Byte := 4
def flgFade : Byte := 8
def flgStale : Byte := 16

/-- FAULT of an output at period `t` whose window reaches back `win` periods (03 R139). -/
def faultIn (s : State) (p t win : Nat) : Bool :=
  let pf := s.pfe p
  pf.st != .ok || t < pf.okFrom + win

def flagByte (fault hold restart fade : Bool) : Byte :=
  (if fault then flgFault else 0) ||| (if hold then flgHold else 0) ||| (if restart then flgRestart else 0) |||
  (if fade then flgFade else 0)

/-! ## Final samples (03 R124-R131) -/

/-- The pad of a filter in the path: none in TOUCHSTONE (03 R137). -/
def padOf (f : Filt) : Nat := if isTouch (cwMode f.word) then 0 else f.pad

/-- The filter's padded window. -/
def windowOf (s : State) (f : Filt) : Nat := spanOf s f.word + 128 * padOf f

/-- The padded window of the old filter of a pair at output instant `t` (03 R139, R153). A gliding filter reads its newest
halfband samples p + k samples late and the older ones p samples late: the window reaches back to the earliest of them. -/
def oldWindow (s : State) (pd : PairDc) (t : Nat) : Nat :=
  let f := pd.filt
  match pd.change.bind (fun c => if c.running then c.glideFrom.map (fun g => (g, c.glidePad)) else none) with
  | some (g, late) =>
    if t < g then windowOf s f
    else
      let first := t - 128 * (blockOf (cwMode f.word) * setTaps s (cwSet f.word) - 1)
      let glided := 893 + (t - max g first) + 128 * late
      if g ≤ first then glided else max (windowOf s f) glided
  | none => windowOf s f

/-- The filter may produce a final sample at `t` (03 R137): from the restart's S on, 0 where the pair has not been restarted
since the reset (DESIGN CHOICE, log 54). -/
def filtValid (s : State) (pd : PairDc) (f : Filt) (t : Nat) : Bool := pd.s0 + windowOf s f + 67 ≤ t

/-- Σ f_j b_j over the mirrored coefficients (03 R124, R133). -/
def firSum (half bs : List Int) : Int :=
  ((half ++ half.reverse).zip bs).foldl (fun a e => a + e.1 * e.2) 0

/-- The unsaturated code U of a filter (03 R129). -/
def codeOf (s : State) (f : Filt) : Int :=
  let m := cwMode f.word
  if isTouch m then roundDiv f.tacc (256 * touchM m)
  else roundDiv (firSum (setHalf s (cwSet f.word)) f.bs) (2 ^ 33 * blockOf m)

/-- Output period of the slower of two configurations (03 R143). -/
def slowPeriod (a b : Word) : Nat := max (modePeriod (cwMode a)) (modePeriod (cwMode b))

/-- A TOUCHSTONE filter begins its next sum after an output instant of its mode. -/
def filtTaken (f : Filt) (m : Nat) : Filt := if isTouch m && cwMode f.word == m then { f with tacc := 0 } else f

/-- A pair at output instant `t` of mode `m`: a sample of its filter, or the codes of a fade instant (03 R146, R147);
and whether the final stage saturated. -/
def dcOutput (s : State) (p t m : Nat) : PairDc × Bool :=
  let pd := s.pdc p
  let hold := (s.pfe p).dch
  let f := pd.filt
  let plain (fade : Bool) : PairDc × Bool :=
    if cwMode f.word == m && filtValid s pd f t then
      let u := codeOf s f
      ({ pd with outs := pd.outs ++ [⟨t, m, sat16 u, flagByte (faultIn s p t (oldWindow s pd t)) hold pd.markFinal fade⟩],
                 markFinal := false }, (sat16 u).toInt != u)
    else (pd, false)
  let r := match pd.change with
    | some c =>
      if !c.running then plain false
      else if t < c.fade then plain (match c.glideFrom with | some g => g ≤ t | none => false)
      else if (t - c.fade) % slowPeriod f.word c.word = 0 then
        let c := if cwMode f.word == m && filtValid s pd f t then { c with uOld := some (t, codeOf s f) } else c
        let c := if cwMode c.new.word == m && filtValid s pd c.new t then { c with uNew := some (t, codeOf s c.new) } else c
        ({ pd with change := some c }, false)
      else (pd, false)
    | none => plain false
  ({ r.1 with filt := filtTaken r.1.filt m, change := r.1.change.map (fun c => { c with new := filtTaken c.new m }) }, r.2)

/-- Install a configuration word (03 R144, R160): the filter keeps its state if MODE and SET stay; with others it starts with
cleared state and nothing else restarts (DESIGN CHOICE, log 56). -/
def installWord (f : Filt) (w : Word) (pad : Nat) : Filt :=
  if cwMode f.word = cwMode w ∧ cwSet f.word = cwSet w then { f with word := w, pad := pad } else { word := w, pad := pad }

/-- The mode whose delivery completes a fade sample: the one delivered last, else the slower. -/
def fadeMode (a b : Word) : Nat :=
  let x := cwMode a
  let y := cwMode b
  if isTouch x != isTouch y then (if isTouch x then x else y) else max x y

/-- A pair when the outputs of mode `m` at instant `t` are delivered (03 R131, R147-R149): the samples, the end of a
change, and whether a fade sample saturated. A fade instant at which one of the filters has no output gives no sample and
counts (DESIGN CHOICE, log 55). -/
def dcDeliver (s : State) (p t m : Nat) : PairDc × Bool × Bool :=
  let pd := s.pdc p
  let mine := pd.outs.filter (fun o => o.at_ == t && o.mode == m)
  let pd := { pd with outs := pd.outs.filter (fun o => !(o.at_ == t && o.mode == m)) }
  let put (pd : PairDc) (v : Word) (fl : Byte) : PairDc := { pd with last := v, lastFlags := fl, lastAt := t, hasOut := true }
  let pd := mine.foldl (fun pd o => put pd o.value o.flags) pd
  match pd.change with
  | some c =>
    let slow := slowPeriod pd.filt.word c.word
    if !c.running || t < c.fade || (t - c.fade) % slow != 0 || fadeMode pd.filt.word c.word != m then (pd, false, false)
    else
      let l := cwFade c.word
      let k := (t - c.fade) / slow + 1
      let r := match c.uOld, c.uNew with
        | some (t1, a), some (t2, b) =>
          if t1 = t ∧ t2 = t ∧ k ≤ l then
            let u := roundDiv (((l : Int) - (k : Int)) * a + (k : Int) * b) l
            let fault := faultIn s p t (oldWindow s pd t) || faultIn s p t (windowOf s c.new)
            (put { pd with markFinal := false } (sat16 u) (flagByte fault (s.pfe p).dch pd.markFinal true), (sat16 u).toInt != u)
          else (pd, false)
        | _, _ => (pd, false)
      if l ≤ k then ({ r.1 with filt := { c.new with pad := c.padEnd }, pad := c.padEnd, change := none }, true, r.2)
      else ({ r.1 with change := some { c with uOld := none, uNew := none } }, false, r.2)
  | none => (pd, false, false)

/-! ## Restart (03 R135-R138) -/

/-- The chain of pair `p` restarted at `t`: its state cleared; a change is abandoned, and the pair restarts with the
captured word and pad 0 (R162). -/
def dcRestarted (pd : PairDc) (t reason ord : Nat) : PairDc :=
  let w := match pd.change with | some c => c.word | none => pd.filt.word
  let pad := match pd.change with | some _ => 0 | none => pd.pad
  { pd with cic := {}, ys := [], hs := [], filt := { word := w, pad := pad }, pad := pad, change := none, outs := [],
            s0 := t, acceptFrom := t + 320, restartDue := none, markFinal := true, markCoarse := true, hasOut := false,
            restart := some ⟨reason, t, ord⟩, shownS := [], missS := [], shownC := [], missC := [], coarseNow := none,
            heldGo := none, heldRestart := false }

/-! ## Live changes (03 R141-R154) -/

/-- The bit of pair `p` is written in DC_GO with word `w` captured (03 R141, R142). -/
def dcGoTake (s : State) (p : Nat) (w : Word) : State :=
  let pd := s.pdc p
  if bitAt s.dc.busy p || (!isTouch (cwMode w) && s.dc.sets.toNat ≤ cwSet w) then
    { s with dc := { s.dc with rejStk := setBitTo s.dc.rejStk p true, rejCnt := bump s 7 0x002 s.dc.rejCnt 1 } }
  else
    let st := nextMulE (slowPeriod pd.filt.word w) (s.per + 1)
    { s with dc := { s.dc with busy := setBitTo s.dc.busy p true } }.setPdc p { pd with change := some { word := w, start := st } }

/-- A restart is carried out (03 R135, R136, R162): four CIC outputs are discarded and a change is abandoned. What was held
back while the pair was under a datapath slice takes effect now (14 R589). -/
def dcRestart (s : State) (p t reason : Nat) : State :=
  let pd := s.pdc p
  let o := s.takeOrd
  let d := { s.dc with discard := bump s 7 0x004 s.dc.discard 4 }
  let d := if pd.change.isSome then { d with busy := setBitTo d.busy p false, doneStk := setBitTo d.doneStk p true } else d
  let s := { o.2 with dc := d }.setPdc p (dcRestarted pd t reason o.1)
  match pd.heldGo with
  | some w => dcGoTake s p w
  | none => s

/-- A restart that is due at a swap instant is carried out (03 R135). -/
def dcRestartDue (s : State) (p : Nat) : State :=
  match (s.pdc p).restartDue with
  | some (t, r) => dcRestart s p t r
  | none => s

/-- Under a datapath slice the write is held back (14 R589). A second one is rejected at once, although BUSY still reads 0
(DESIGN CHOICE, log 57). -/
def dcGoWrite (s : State) (p : Nat) : State :=
  let w := (s.pdc p).next
  if s.integ.dpSlice.isSome && s.integ.dpPair.toNat == p then
    if (s.pdc p).heldGo.isSome then
      { s with dc := { s.dc with rejStk := setBitTo s.dc.rejStk p true, rejCnt := bump s 7 0x002 s.dc.rejCnt 1 } }
    else s.setPdc p { s.pdc p with heldGo := some w }
  else dcGoTake s p w

/-- A DC_RESTART bit (03 R135, R158; 14 R589). -/
def dcRestartWrite (s : State) (p : Nat) : State :=
  if s.integ.dpSlice.isSome && s.integ.dpPair.toNat == p then s.setPdc p { s.pdc p with heldRestart := true }
  else s.setPdc p { s.pdc p with restartReq := some 0 }

/-- The start instant of a pair's change (03 R144, R145, R150-R154). MODE and SET are compared in TOUCHSTONE, too, and an
installation without a fade judges no alignment (DESIGN CHOICE, log 58). -/
def dcChangeAt (s : State) (p : Nat) : State :=
  let pd := s.pdc p
  match pd.change with
  | none => s
  | some c =>
    if c.running then s
    else
      let f := pd.filt
      if (s.pfe p).st = .off ∨ (cwMode c.word = cwMode f.word ∧ cwSet c.word = cwSet f.word) then
        { s with dc := { s.dc with busy := setBitTo s.dc.busy p false, doneStk := setBitTo s.dc.doneStk p true } }.setPdc p
          { pd with change := none, filt := installWord f c.word pd.pad }
      else
        let st := c.start
        let slow := slowPeriod f.word c.word
        let spanN := spanOf s c.word
        let dNew := delayOf s c.word
        let dOld := delayOf s f.word + 128 * pd.pad
        let k := (if dNew ≤ dOld then dOld - dNew else dNew - dOld) / 128
        let presets := !isTouch (cwMode f.word) && !isTouch (cwMode c.word)
        let fits := if dNew ≤ dOld then k ≤ 2048 else pd.pad + k ≤ 2048
        let al := cwAlign c.word && presets && fits
        let s := if cwAlign c.word && !al then { s with dc := { s.dc with alskipStk := setBitTo s.dc.alskipStk p true } } else s
        let c :=
          if !al then { c with running := true, new := { word := c.word }, fade := nextMulE slow (st + spanN), padEnd := 0 }
          else if dNew ≤ dOld then
            { c with running := true, new := { word := c.word, pad := k }, fade := nextMulE slow (st + spanN + 128 * k), padEnd := k }
          else
            { c with running := true, new := { word := c.word }, padEnd := 0, glideFrom := some (st + 128 * k), glidePad := pd.pad + k,
                     fade := nextMulE slow (max (st + spanN) (st + 128 * k + spanOf s f.word)) }
        s.setPdc p { pd with change := some c }

/-- Changes whose start instant lies before `t` and has not been commanded start now. -/
def flushChanges (s : State) (t : Nat) : State :=
  (List.range (nPairs s)).foldl (fun s p =>
    match (s.pdc p).change with
    | some c => if !c.running && c.start < t then dcChangeAt s p else s
    | none => s) s

/-- Restarts that are due and have not been commanded are carried out. -/
def flushRestarts (s : State) : State := (List.range (nPairs s)).foldl dcRestartDue s

/-- State decisions that are due and have not been commanded are carried out. -/
def flushDecisions (s : State) : State := (List.range (nPairs s)).foldl feDecide s

/-! ## Registers (03 R155-R160) -/

/-- The bitmaps from 0x020: number of the map and word. -/
def dcMapAt (off : Nat) : Option (Nat × Nat) :=
  if 0x20 ≤ off ∧ off < 0x120 ∧ off % 0x20 < 0x18 then some (off / 0x20, off % 0x20 / 2) else none

/-- The per-pair registers: number of the group and pair. -/
def dcPairAt (off : Nat) : Option (Nat × Nat) :=
  if 0x200 ≤ off ∧ off < 0xC00 ∧ off % 0x200 < 0x180 then some (off / 0x200, off % 0x200 / 2) else none

def dcRead (s : State) (off : Nat) : Nat :=
  match dcMapAt off with
  | some (m, w) =>
    (match m with
     | 2 => mapWord s.dc.busy w
     | 3 => mapWord s.dc.doneStk w
     | 4 => mapWord s.dc.doneIe w
     | 5 => mapWord s.dc.rejStk w
     | 6 => mapWord s.dc.alskipStk w
     | 7 => mapWord s.dc.satStk w
     | _ => 0)
  | none =>
    match dcPairAt off with
    | some (g, p) =>
      let pd := s.pdc p
      (match g with
       | 1 => pd.filt.word.toNat
       | 2 => pd.next.toNat
       | 3 => pd.pad
       | 4 => pd.coarse.toNat
       | _ => pd.last.toNat)
    | none =>
      match off with
      | 0x000 => s.dc.sets.toNat
      | 0x002 => s.dc.rejCnt.toNat
      | 0x004 => s.dc.discard.toNat
      | _ => 0

/-- The pairs of a word of a write-only bitmap whose bit is written 1. -/
def pairsOf (s : State) (w v : Nat) : List Nat :=
  ((List.range 16).filter (fun i => v.testBit i && 16 * w + i < nPairs s)).map (fun i => 16 * w + i)

/-- A write to DC_NEXTnnn (03 R160). -/
def dcNextW (s : State) (p v : Nat) : State :=
  let pd := s.pdc p
  let w := BitVec.ofNat 16 (v &&& 0x70FF)
  if !s.fe.running && !bitAt s.dc.busy p then s.setPdc p { pd with next := w, filt := installWord pd.filt w 0, pad := 0 }
  else s.setPdc p { pd with next := w }

def dcWrite (s : State) (off v : Nat) : State :=
  match dcMapAt off with
  | some (m, w) =>
    (match m with
     | 1 => (pairsOf s w v).foldl dcGoWrite s
     | 3 => { s with dc := { s.dc with doneStk := clearMapWord s.dc.doneStk w v } }
     | 4 => { s with dc := { s.dc with doneIe := setMapWord s.dc.doneIe w v &&& pairMask s } }
     | 5 => { s with dc := { s.dc with rejStk := clearMapWord s.dc.rejStk w v } }
     | 6 => { s with dc := { s.dc with alskipStk := clearMapWord s.dc.alskipStk w v } }
     | 7 => { s with dc := { s.dc with satStk := clearMapWord s.dc.satStk w v } }
     | 8 => (pairsOf s w v).foldl dcRestartWrite s
     | _ => s)
  | none =>
    match dcPairAt off with
    | some (g, p) => if g = 2 then dcNextW s p v else s
    | none =>
      match off with
      | 0x002 => { s with dc := { s.dc with rejCnt := BitVec.ofNat 16 v } }
      | 0x004 => { s with dc := { s.dc with discard := BitVec.ofNat 16 v } }
      | _ => s

def dcAbsent (s : State) (off : Nat) : Bool :=
  match dcMapAt off with
  | some (_, w) => nPairs s ≤ 16 * w
  | none => (match dcPairAt off with | some (_, p) => nPairs s ≤ p | none => false)

end Sys2Proof.Machine
end

