-- ==== Sys2Proof/Machine/Ss.lean ====
section
/-! DEFINITION. The sample store: leases, pages, the error log, stream positions, records and their writing, arming,
scrubbing, and the SS_ registers (04). -/
namespace Sys2Proof.Machine

/-! ## Leases (04 R196), shared by SS_LEASE, CE_LEASE and IMG_LEASE -/

def leaseMine (l : Lease) (k : Nat) : Bool := l.held && l.owner.val == k

/-- ACQUIRE by keeper `k`: a grant, a renewal by the holder, or nothing. -/
def leaseAcquire (l : Lease) (k : Fin 4) (now : Nat) : Lease :=
  if l.held && l.owner != k then l
  else { l with held := true, owner := k, since := now, tmoInForce := max 1 l.tmo.toNat }

/-- RELEASE by keeper `k`: only the holder's. -/
def leaseRelease (l : Lease) (k : Fin 4) : Lease := if l.held && l.owner == k then { l with held := false } else l

/-- The lease has run for its TMO, in units of 1,024 BUS_CLK cycles. -/
def leaseOver (l : Lease) (now : Nat) : Bool := l.held && l.since + 1024 * l.tmoInForce ≤ now

/-- The lease word as keeper `k` reads it. -/
def leaseRead (l : Lease) (k : Nat) : Nat := b2n l.held * 32768 + b2n (leaseMine l k) * 16384 + l.owner.val

/-- A write of OP to a lease register. -/
def leaseOp (l : Lease) (k : Fin 4) (now v : Nat) : Lease :=
  match v % 4 with
  | 1 => leaseAcquire l k now
  | 2 => leaseRelease l k
  | _ => l

/-- A keeper number as `Fin 4`. -/
def keeperFin (k : Nat) : Fin 4 := ⟨k % 4, Nat.mod_lt k (by decide)⟩

/-! ## Stream positions (04 R171-R173, R673) -/

/-- Pages of the ring: 16 for LOCKET, none where RLEN gives no capacity (04 R180, R181). -/
def strmPages (st : Stream) : Nat :=
  if st.kind = 5 then 16 else if st.rlen.toNat ≤ 8192 then st.rlen.toNat else 0
def strmCap (st : Stream) : Nat := 2048 * strmPages st
/-- W: the largest multiple of the capacity not above 2^32; 0 where there is no capacity. -/
def strmWrap (st : Stream) : Nat := if strmCap st = 0 then 0 else strmCap st * (2 ^ 32 / strmCap st)
/-- (x - y) mod W. -/
def posDiff (w x y : Nat) : Nat := if w = 0 then 0 else (x % w + w - y % w) % w
def strmLevel (st : Stream) : Nat :=
  match st.keptLevel with
  | some l => l
  | none => posDiff (strmWrap st) st.head st.tail

/-- The page number at index `i` of the stream's ring. -/
def ringPage (s : State) (st : Stream) (i : Nat) : Nat :=
  if st.kind = 5 then i else (tget 0 s.ss.ring (st.rbase.toNat + i)).toNat

/-- The sample store word that a position maps to (04 R172). -/
def posWord (s : State) (st : Stream) (pos : Nat) : Nat :=
  let o := pos % strmCap st
  ringPage s st (o / 2048) * 2048 + o % 2048

/-- The watermark bits when LEVEL goes from `old` to `new` (04 R191, R193). -/
def wmMove (st : Stream) (old new : Nat) : Stream :=
  let wm := st.wm.toNat
  if old < wm ∧ wm ≤ new then
    (if st.wmArm then { st with wmHit := true, wmArm := false, seen := false } else st)
  else if wm ≤ old ∧ new < wm then
    (if st.wmHit && !st.seen then { st with wmReceded := true } else st)
  else st

/-- TAIL written (04 R180). -/
def tailWrite (st : Stream) (v : Nat) : Stream :=
  let w := strmWrap st
  if v < w ∧ posDiff w v st.tail ≤ strmLevel st then
    let st' := { st with tail := v, keptLevel := st.keptLevel.map (fun l => l - posDiff w v st.tail) }
    wmMove st' (strmLevel st) (strmLevel st')
  else { st with tailErr := true }

/-- TAIL written while the hub may have moved it in this very cycle: the value further from the old TAIL stands (04 R180). -/
def tailWriteAt (s : State) (n v : Nat) : Stream :=
  let st := s.strm n
  let old := (tget {} s.was.ss.streams n).tail
  if st.movedAt = s.cyc + 1 ∧ v < strmWrap st ∧ posDiff (strmWrap st) v old < posDiff (strmWrap st) st.tail old then st
  else tailWrite st v

/-- The watermark bits of stream `n` as the hub moves LEVEL; WM_ARM keeps what firmware has written in this cycle (00 R23). -/
def wmHub (s : State) (n : Nat) (st : Stream) (old new : Nat) : Stream :=
  let st' := wmMove st old new
  if s.fwWrote 8 0x002 n then { st' with wmArm := st.wmArm } else st'

/-- HEAD written: only a LOCKET stream's (04 R181). -/
def headWrite (st : Stream) (v : Nat) : Stream :=
  if st.kind = 5 then
    let st' := { st with head := v, keptLevel := none }
    wmMove st' (strmLevel st) (strmLevel st')
  else st

/-! ## The error log (04 R212) -/

/-- A detection of a poisoned sample store word. -/
def elogHit (s : State) (page w : Nat) : State :=
  let b := pageBank s page
  let r := wordRow s page w
  let ss := s.ss
  if ss.elog.any (fun e => e.bank == b && e.row == r) then
    { s with ss := { ss with elog := ss.elog.map (fun e =>
      if e.bank == b && e.row == r then { e with count := satAdd e.count 1 } else e) } }
  else if ss.elog.length < 64 then
    { s with ss := { ss with elog := ss.elog ++ [⟨page, b, r, 1⟩], flt := ss.flt ||| 4 } }
  else { s with ss := { ss with elogOvf := bump s 8 0x07A ss.elogOvf 1, flt := ss.flt ||| 8 } }

/-- A sample store word as a reader gets it: its data and mark; a poisoned one is logged. -/
def readStore (s : State) (w : Nat) : (Word × Bool) × State :=
  let bad := storePois s w
  ((storeWord s w, bad), if bad then elogHit s (w / 2048) (w % 2048) else s)

/-! ## Records (04 R182-R185) -/

/-- Words 0-4 of a record: header, epoch with the low twelve bits of word 1, timestamp. -/
def recHead (type : Nat) (flags : Bool) (len e low : Nat) : List Word :=
  [BitVec.ofNat 16 (type * 4096 + b2n flags * 2048 + (len - 1)),
   BitVec.ofNat 16 (e / 2 ^ 48 % 16 * 4096 + low),
   BitVec.ofNat 16 e, BitVec.ofNat 16 (e / 65536), BitVec.ofNat 16 (e / 2 ^ 32)]

/-- Bytes packed two to a word, the first in [7:0]. -/
def packBytes : List Byte → List Word
  | [] => []
  | [a] => [a.setWidth 16]
  | a :: b :: t => (b ++ a) :: packBytes t

/-- A SAMPLE (1) or COARSE (2) record from its slots. -/
def slotRecord (type low e : Nat) (slots : List Slot) : List Word :=
  let flagged := slots.any (fun x => x.flags != 0)
  let fw := if flagged then packBytes (slots.map (·.flags)) else []
  recHead type flagged (5 + slots.length + fw.length) e low ++ slots.map (·.value) ++ fw

/-- A GAP record. -/
def gapRecord (g : Gap) : List Word :=
  recHead 5 false 8 g.e (g.reason * 256) ++ [g.pair, BitVec.ofNat 16 (min g.count 65535), 0]

/-! ## Writing a unit (04 R176-R179, R189, R673; 05 R236) -/

/-- Where the words of each record of a unit go, as offsets from HEAD: the END word if one is needed, the record's
start, its words; and the offset of the unit's end. `pg` is HEAD's offset in its page. -/
def layUnit (pg : Nat) : Nat → List (List Word) → List (Option Nat × Nat × List Word) × Nat
  | off, [] => ([], off)
  | off, r :: rs =>
    let inPage := (pg + off) % 2048
    let fits := inPage + r.length ≤ 2048
    let start := if fits then off else off + (2048 - inPage)
    let t := layUnit pg (start + r.length) rs
    ((if fits then none else some off, start, r) :: t.1, t.2)

/-- The words of one record, and its END word, at positions counted from `head`. -/
def writeWordsAt (s : State) (st : Stream) (pos : Nat) : List Word → State
  | [] => s
  | w :: ws => writeWordsAt (putStoreWord s (posWord s st pos) w) st (pos + 1) ws

/-- The stream is named by a source of the charm engine (07 R290). -/
def isSource (s : State) (n : Nat) : Bool := s.ce.srcs.any (fun e => fld e.2.toNat 14 2 == 1 && e.2.toNat % 256 == n)

/-- The record is one that the fetch unit reads: a SAMPLE, COARSE or FRAME record of a source (07 R290, R299). -/
def fetchable (s : State) (n : Nat) (ws : List Word) : Bool :=
  let ty := fld (nth 0 ws 0).toNat 12 4
  isSource s n && decide (1 ≤ ty) && decide (ty ≤ 3)

/-- One record written: END word, words, then HEAD's advance with its watermark and the fetch that follows (04 R177;
07 R299). `adv` is how far the unit's TAIL moves went beyond the old TAIL, `lvl0` LEVEL before them. -/
def writeRecord (n : Fin 256) (e head0 lvl0 adv : Nat) (s : State) (x : Option Nat × Nat × List Word) : State :=
  let st := s.strm n
  let s := match x.1 with | some o => putStoreWord s (posWord s st (head0 + o)) 0 | none => s
  let s := writeWordsAt s st (head0 + x.2.1) x.2.2
  let endOff := x.2.1 + x.2.2.length
  let old := lvl0 + posDiff (strmWrap st) st.head head0 - adv
  let st' := wmHub s n { st with head := (head0 + endOff) % strmWrap st } old (lvl0 + endOff - adv)
  let s := s.setStrm n st'
  if !fetchable s n x.2.2 then s
  else { s with ss := { s.ss with fetches := s.ss.fetches ++ [⟨n, (head0 + x.2.1) % strmWrap st, x.2.2.length, e⟩] } }

/-- A lost record adds to the writer's pending GAP record of this reason, or creates it (04 R179, R189) at place `ord` of the
order of causes. -/
def addGap (gs : List Gap) (port reason e ord : Nat) : List Gap :=
  if gs.any (fun g => g.port == port && g.reason == reason) then
    gs.map (fun g => if g.port == port && g.reason == reason then { g with count := g.count + 1 } else g)
  else gs ++ [⟨port, reason, 0xFFFF, 1, e, ord⟩]

/-- A GAP record among others in the order in which their causes arose; one of the same cause goes last. -/
def insertGap (g : Gap) : List Gap → List Gap
  | [] => [g]
  | h :: t => if g.ord < h.ord then g :: h :: t else h :: insertGap g t

/-- GAP records in the order in which their causes arose (04 R179). -/
def sortGaps (gs : List Gap) : List Gap := gs.foldl (fun a g => insertGap g a) []

/-- How far TAIL moves so that a unit of `total` words after LEVEL words fits: to page boundaries (04 R179). -/
def tailMoves (tail lvl total cap : Nat) : Nat :=
  if lvl + total ≤ cap then 0
  else (lvl + total - cap + tail % 2048 + 2047) / 2048 * 2048 - tail % 2048

/-- The port's requests are refused (05 R236): a block that firmware clears ends with the next cycle (05 R246). -/
def portBlocked (s : State) (port : Nat) : Bool := bitAt s.arb.block port || bitAt s.was.arb.block port

/-- The stream's writers write the record at place `ord`: the stream is armed and the record is complete since then, or it was
in progress when the stream was disarmed (04 R203, R204). -/
def strmTakes (st : Stream) (ord : Nat) : Bool := if st.armed then decide (st.armOrd ≤ ord) else st.lastOrd == some ord

/-- A complete record is written by the writer of `port` with the GAP records pending before it, or discarded: for want
of space, or because the port in use is `blocked`. -/
def writeUnitAs (s : State) (port : Nat) (blocked : Bool) (r : Rec) : State :=
  let n := r.stream
  let st := s.strm n
  if !strmTakes st r.ord then s
  else
    let o := s.takeOrd
    let s := o.2
    let mine := sortGaps (st.gaps.filter (fun g => g.port == port) ++ r.gaps)
    let others := st.gaps.filter (fun g => g.port != port)
    let lay := layUnit (st.head % 2048) 0 (mine.map gapRecord ++ [r.words])
    let lvl := strmLevel st
    let cap := strmCap st
    let fits := lvl + lay.2 ≤ cap
    if !fits && !st.overwrite then
      s.setStrm n { st with drop := bump s 8 0x01A st.drop 1 n, dropped := true, gaps := others ++ addGap mine port 2 r.e o.1 }
    else
      let adv := tailMoves st.tail lvl lay.2 cap
      let w := strmWrap st
      let moved := { st with tail := (st.tail + adv) % w, overwritten := st.overwritten || adv != 0, keptLevel := none,
                              movedAt := if adv = 0 then st.movedAt else s.cyc + 1 }
      let moved := wmHub s n moved lvl (lvl - adv)
      if blocked then
        let moved := if lvl < adv then { moved with tail := moved.head } else moved
        s.setStrm n { moved with gaps := others ++ addGap mine port 3 r.e o.1 }
      else
        let s := s.setStrm n { moved with gaps := others }
        lay.1.foldl (writeRecord n r.e st.head lvl adv) s

/-- A complete record is written through its writer's own port. -/
def writeUnit (s : State) (port : Nat) (r : Rec) : State := writeUnitAs s port (portBlocked s port) r

/-- The places of the complete records of stream `n` that wait, at whichever writer. -/
def waitingOrds (s : State) (n : Nat) : List Nat :=
  (s.ss.ready.filter (fun r => r.stream.val == n)).map (·.ord) ++ (s.ce.wq.filter (fun r => r.stream.val == n)).map (·.ord) ++
  (s.io.ports.filter (fun e => e.2.stream.toNat == n)).flatMap (fun e => e.2.done.map (·.ord))

/-- A record of this stream completed earlier and waits at another place (04 R177). -/
def earlierWaits (s : State) (n : Fin 256) (ord : Nat) : Bool := (waitingOrds s n).any (fun o => o < ord)

/-- The record of stream `n` that is in progress: the first complete one, whose writer has raised its port (04 R178, R204). -/
def inProgress (s : State) (n : Nat) : Option Nat := (waitingOrds s n).min?

/-! ## Record assembly by the decimation writer (04 R186, R187, R189) -/

/-- EN and STREAM of SS_PSAMPnnn, SS_PCOARSEnnn. -/
def feeds (w : Word) (n : Nat) : Bool := bitAt w 8 && w.toNat % 256 == n
/-- The member pairs of a SAMPLE, a COARSE stream in ascending order. -/
def sampleMembers (s : State) (n : Nat) : List Nat := (List.range (nPairs s)).filter (fun p => feeds (tget 0 s.ss.psample p) n)
def coarseMembers (s : State) (n : Nat) : List Nat := (List.range (nPairs s)).filter (fun p => feeds (tget 0 s.ss.pcoarse p) n)

/-- The restart that stream `n` has not been told of, if there is one: `shown` lists the streams that have (04 R186, R187). -/
def untold (g : Option RestartGap) (shown : List Nat) (n : Nat) : Option RestartGap :=
  if shown.any (fun m => m == n) then none else g

/-- One more record of stream `n`, of instant `e`, in which the pair's slot holds 0 with STALE. -/
def missOne (t : Tab Missing) (n e : Nat) : Tab Missing :=
  let m := tget {} t n
  tput {} t n { count := m.count + 1, first := some (m.first.getD e) }

/-- The GAP record that a restart owes to a stream (04 R189). -/
def oweGap (p : Nat) (g : RestartGap) (m : Missing) : Gap :=
  ⟨0, g.reason, BitVec.ofNat 16 p, m.count, m.first.getD (g.at_ % 2 ^ 52), g.ord⟩

/-- The slot of pair `p` in the SAMPLE record of stream `n` for instant `t`, the pair after it, and the GAP record owed. -/
def sampleSlot (pd : PairDc) (n p t e : Nat) : Slot × PairDc × List Gap :=
  let owed := untold pd.restart pd.shownS n
  if !pd.hasOut then (⟨0, flgStale⟩, if owed.isSome then { pd with missS := missOne pd.missS n e } else pd, [])
  else
    let fl := if pd.lastAt = t then pd.lastFlags else pd.lastFlags ||| flgStale
    match owed with
    | some g => (⟨pd.last, fl ||| flgRestart⟩, { pd with shownS := n :: pd.shownS }, [oweGap p g (tget {} pd.missS n)])
    | none => (⟨pd.last, fl⟩, pd, [])

/-- A complete record joins the write-combine buffers. -/
def pushReady (s : State) (r : Rec) : State :=
  let o := s.takeOrd
  { o.2 with ss := { o.2.ss with ready := o.2.ss.ready ++ [{ r with ord := o.1 }] } }

/-- The SAMPLE record of stream `n` for instant `t` (04 R186). -/
def assembleSample (s : State) (n : Fin 256) (t : Nat) : State :=
  let e := t % 2 ^ 52
  let ms := sampleMembers s n
  let r := ms.foldl (fun (acc : State × List Slot × List Gap) p =>
    let x := sampleSlot (acc.1.pdc p) n p t e
    (acc.1.setPdc p x.2.1, acc.2.1 ++ [x.1], acc.2.2 ++ x.2.2)) (s, [], [])
  let s := r.1.setStrm n { r.1.strm n with lastRec := t + 1 }
  pushReady s { stream := n, e := e, words := slotRecord 1 ms.length e r.2.1, gaps := r.2.2 }

/-- A member still owes an output for instant `t`: formed or in a fade, and not delivered. -/
def outputOwed (s : State) (p t : Nat) : Bool :=
  let pd := s.pdc p
  pd.outs.any (fun o => o.at_ == t) ||
  (match pd.change with
   | some c => (match c.uOld with | some (a, _) => a == t | none => false) ||
               (match c.uNew with | some (a, _) => a == t | none => false)
   | none => false)

/-- The SAMPLE streams whose record falls at `t` and is complete (04 R178, R186): once no member still owes its output of that
instant, where the members' delivery delays differ (DESIGN CHOICE, log 59). -/
def sampleReady (s : State) (t : Nat) (e : Nat × Stream) : Bool :=
  let st := e.2
  st.armed && st.kind == 1 && onInstant t (modePeriod st.mode.toNat) && st.lastRec ≤ t &&
  !(s.dc.dues.any (fun d => d.1 == t && d.2 == st.mode.toNat)) && !((sampleMembers s e.1).any (fun p => outputOwed s p t))

/-- A stream number as `Fin 256`. -/
def streamFin (n : Nat) : Fin 256 := ⟨n % 256, Nat.mod_lt n (by decide)⟩

def assembleSamples (s : State) (t : Nat) : State :=
  (s.ss.streams.filter (sampleReady s t)).foldl (fun s e => assembleSample s (streamFin e.1) t) s

/-- The slot of pair `p` in a COARSE record of stream `n` for instant `t`; the pair's latest coarse value and its flags are in
`coarseNow` (04 R187). -/
def coarseSlot (pd : PairDc) (n p t : Nat) : Slot × PairDc × List Gap :=
  match pd.coarseNow with
  | some (t', v, fl) =>
    if t' = t then
      match untold pd.restart pd.shownC n with
      | some g => (⟨BitVec.ofInt 16 v, fl ||| flgRestart⟩, { pd with shownC := n :: pd.shownC }, [oweGap p g (tget {} pd.missC n)])
      | none => (⟨BitVec.ofInt 16 v, fl⟩, pd, [])
    else (⟨0, flgStale⟩, pd, [])
  | none => (⟨0, flgStale⟩, pd, [])

/-- Pairs whose slots of a record of stream `n` have all held 0 with STALE since a restart count it (04 R189). -/
def countCoarse (s : State) (n : Nat) (ms : List (Fin 192)) (e : Nat) : State :=
  (ms.map (·.val)).foldl (fun s p =>
    let pd := s.pdc p
    if (untold pd.restart pd.shownC n).isSome then s.setPdc p { pd with missC := missOne pd.missC n e } else s) s

/-- A COARSE stream takes instant `t`; at the last of its K instants the record is complete (04 R187). A stream that is armed
between the K instants of a record begins with the next K whole ones (DESIGN CHOICE, log 60). -/
def coarseStream (s : State) (t : Nat) (n : Fin 256) : State :=
  let st := s.strm n
  let k := st.km1.toNat + 1
  let i := t % 2 ^ 52 / 128 % k
  let e := t % 2 ^ 52
  if i != 0 && st.asmFirst != some (e - 128 * i) then s
  else
    let st := if i = 0 then { st with members := (coarseMembers s n).map (fun p => ⟨p % 192, Nat.mod_lt p (by decide)⟩),
                                      asmFirst := some e, asmSlots := [], asmGaps := [] } else st
    if st.asmSlots.length != i * st.members.length then s.setStrm n { st with asmFirst := none }
    else
      let r := (st.members.map (·.val)).foldl (fun (acc : State × List Slot × List Gap) p =>
        let x := coarseSlot (acc.1.pdc p) n p t
        (acc.1.setPdc p x.2.1, acc.2.1 ++ [x.1], acc.2.2 ++ x.2.2)) (s, st.asmSlots, st.asmGaps)
      let s := r.1
      if i + 1 < k then s.setStrm n { st with asmSlots := r.2.1, asmGaps := r.2.2 }
      else
        let s := s.setStrm n { st with asmFirst := none, asmSlots := [], asmGaps := [] }
        let s := countCoarse s n st.members (st.asmFirst.getD e)
        pushReady s { stream := n, e := st.asmFirst.getD e, gaps := r.2.2,
                      words := slotRecord 2 (st.km1.toNat * 256 + st.members.length) (st.asmFirst.getD e) r.2.1 }

def coarseStreams (s : State) (t : Nat) : State :=
  (s.ss.streams.filter (fun e => e.2.armed && e.2.kind == 2)).foldl (fun s e => coarseStream s t (streamFin e.1)) s

/-- The decimation writer writes a complete record: through port 0, or through port 11 during a power-fail warning
(13 R557). -/
def writeReady (s : State) (r : Rec) : State := writeUnitAs s 0 (!s.pwr.port11 && portBlocked s 0) r

/-- The first complete record of stream `n` leaves its buffer and is written (04 R176, R177). -/
def writeStream (s : State) (n : Fin 256) : State :=
  match s.ss.ready.find? (fun r => r.stream == n) with
  | none => s
  | some r =>
    if earlierWaits s n r.ord then s
    else writeReady { s with ss := { s.ss with ready := s.ss.ready.filter (fun x => x.ord != r.ord) } } r

/-- Every complete record is written, in order of completion. -/
def writeAllReady (s : State) : State := s.ss.ready.foldl (fun s r => writeReady s r) { s with ss := { s.ss with ready := [] } }

/-! ## Arming (04 R203, R204) -/

/-- The stream counts as armed for the protection of its descriptor and pages. -/
def strmBound (st : Stream) : Bool := st.armed || st.checking
def hasRange (st : Stream) : Bool := strmBound st && st.kind != 5
def inRange (st : Stream) (i : Nat) : Bool := st.rbase.toNat ≤ i && i < st.rbase.toNat + st.rlen.toNat

/-- The pages of a stream's ring. -/
def ringPages (s : State) (st : Stream) : List Nat := (List.range (strmPages st)).map (ringPage s st)

/-- The page is in an armed stream's ring, or in a range under an arming check. -/
def pageInRing (s : State) (p : Nat) : Bool :=
  s.ss.streams.any (fun e => strmBound e.2 && (ringPages s e.2).any (fun q => q == p))
/-- INRING: in an armed ring (04 R216). -/
def pageArmed (s : State) (p : Nat) : Bool := s.ss.streams.any (fun e => e.2.armed && (ringPages s e.2).any (fun q => q == p))

def noDup : List Nat → Bool
  | [] => true
  | a :: t => !t.any (fun b => b == a) && noDup t

/-- The first arming check that fails, 0 if none does. -/
def armCheck (s : State) (n : Nat) : Nat :=
  let st := s.strm n
  let others := (s.ss.streams.filter (fun e => e.1 != n)).map (·.2)
  let rb := st.rbase.toNat
  let rl := st.rlen.toNat
  if st.kind = 0 ∨ 5 < st.kind.toNat then 1
  else if st.kind = 5 then (if others.any (fun o => o.armed && o.kind == 5) then 6 else 0)
  else if rl = 0 ∨ 8192 < rl ∨ 8192 < rb + rl then 2
  else if others.any (fun o => hasRange o && rb < o.rbase.toNat + o.rlen.toNat && o.rbase.toNat < rb + rl) then 3
  else
    let ps := ringPages s st
    if ps.any (fun p => (s.page p).st != .allocated && (s.page p).st != .retirePending) || !noDup ps ||
       ps.any (fun p => others.any (fun o => hasRange o && (ringPages s o).any (fun q => q == p))) then 4
    else if st.slotsOver then 5
    else 0

/-- K × N exceeds what a COARSE record may hold (04 R183, R188, R203). -/
def slotsTooMany (s : State) (n : Nat) (st : Stream) : Bool :=
  st.kind == 2 && decide (1362 < (st.km1.toNat + 1) * (coarseMembers s n).length)

/-- A write of SS_D_CTRL to stream `n` (04 R203, R204, R215). -/
def ctrlWrite (s : State) (n v : Nat) : State :=
  let st := s.strm n
  let st := { st with wmIe := v.testBit 3, wmArm := v.testBit 2 }
  if strmBound st then
    if v.testBit 15 then s.setStrm n st
    else if st.checking then s.setStrm n { st with checking := false, armErr := 7 }
    else s.setStrm n { st with armed := false, lastOrd := inProgress s n }
  else
    let st := { st with kind := BitVec.ofNat 3 (fld v 12 3), overwrite := v.testBit 11, mode := BitVec.ofNat 3 (fld v 8 3),
                        km1 := BitVec.ofNat 4 (fld v 4 4) }
    s.setStrm n (if v.testBit 15 then { st with checking := true, armErr := 0, slotsOver := slotsTooMany s n st } else st)

/-- The check of stream `n` ends (04 R203). -/
def armEnd (s : State) (n : Nat) : State :=
  let st := s.strm n
  if !st.checking then s
  else
    match armCheck s n with
    | 0 => s.setStrm n { st with checking := false, armed := true, armErr := 0, head := 0, tail := 0, keptLevel := none,
                                 lastRec := s.per, asmFirst := none, asmSlots := [], asmGaps := [],
                                 armOrd := 32 * s.ss.ord, lastOrd := none }
    | k + 1 => s.setStrm n { st with checking := false, armErr := BitVec.ofNat 3 (k + 1) }

/-- A write of SS_PSAMPnnn (`coarse` false) or SS_PCOARSEnnn (04 R188). -/
def pairStreamWrite (s : State) (coarse : Bool) (p v : Nat) : State :=
  let w := BitVec.ofNat 16 (v % 512)
  if !coarse then { s with ss := { s.ss with psample := tput 0 s.ss.psample p w } }
  else
    let n := v % 256
    let s' := { s with ss := { s.ss with pcoarse := tput 0 s.ss.pcoarse p w } }
    let st := s.strm n
    if strmBound st && v.testBit 8 && slotsTooMany s' n st then
      s.setStrm n { st with tailErr := true }
    else s'

/-! ## The pages of memory slices (14 R578, R581) -/

/-- A duration in whole ms (00 R669). -/
def elapsedMs {n : Nat} (s : State) (from_ : Nat) : BitVec n := BitVec.ofNat n (min ((s.now - from_) / msCycles) (2 ^ n - 1))

/-- The next FREE page at or after `p`, over `fuel` pages. -/
def nextFreePage (s : State) : Nat → Nat → Option Nat
  | 0, _ => none
  | n + 1, p => if (s.page p).st = .free then some p else nextFreePage s n (p + 1)

/-- The page of the next slice, and whether the order wraps to reach it. -/
def nextSlicePage (s : State) : Option (Nat × Bool) :=
  let from_ := if s.integ.memAny then s.integ.memPage.toNat + 1 else 16
  match nextFreePage s (nPages s - from_) from_ with
  | some p => some (p, false)
  | none => (nextFreePage s (from_ - 16) 16).map (fun p => (p, true))

/-- Pages that a lap has not tested (14 R581). -/
def untested (s : State) : List Nat :=
  ((List.range (nPages s)).drop 16).filter (fun p => (s.page p).st != .retired && !s.integ.tested.any (fun q => q == p))

/-- A lap ends. -/
def memLapEnd (s : State) : State :=
  let u := untested s
  let i := s.integ
  let s := { s with integ := { i with memLap := BitVec.ofNat 32 (min ((s.now - i.lapAt) / (1000 * msCycles)) (2 ^ 32 - 1)), lapAt := s.now, tested := [],
                                      untCnt := BitVec.ofNat 14 u.length, untFirst := BitVec.ofNat 13 (nth 0 u 0) } }
  bistFlag (if u = [] then s else bistFlag s 3) 6

/-- The memory slice that starts now takes its page (14 R578, R579). -/
def sliceTakePage (s : State) : State :=
  match nextSlicePage s with
  | none => s
  | some (p, wraps) =>
    let s := if wraps then memLapEnd s else s
    let s := if s.integ.memAny then s else { s with integ := { s.integ with lapAt := s.now } }
    { s with integ := { s.integ with memSlice := some p, memSliceAt := s.cyc, memPage := BitVec.ofNat 13 p, memAny := true } }.setPage p
      ⟨.borrowed, 0⟩

/-! ## The page allocator (04 R198-R202) -/

/-- FREE pages (04 R216). -/
def freeCount (s : State) : Nat :=
  nPages s - 16 - (s.ss.pages.filter (fun e => 16 ≤ e.1 && e.1 < nPages s && e.2.st != .free)).length

/-- The page that a memory slice borrowed in this cycle: an allocation of the same cycle may choose it, too (04 R199). -/
def borrowedNow (s : State) : Option Nat := if s.integ.memSliceAt = s.cyc then s.integ.memSlice else none

/-- The lowest FREE page from `p` on in the group (4: any), over `fuel` pages. -/
def lowestFree (s : State) (grp : Nat) : Nat → Nat → Option Nat
  | 0, _ => none
  | fuel + 1, p =>
    if ((s.page p).st = .free ∨ borrowedNow s = some p) ∧ (4 ≤ grp ∨ pageGroup s p = grp) then some p else lowestFree s grp fuel (p + 1)

/-- The result word of an allocation under `tag`, and the state: the page is ALLOCATED at once. A slice that chose the same page
in the same cycle takes another (04 R199). -/
def allocate (s : State) (grp tag : Nat) : Word × State :=
  match lowestFree s grp (nPages s - 16) 16 with
  | some p =>
    let t := s.setPage p ⟨.allocated, BitVec.ofNat 8 tag⟩
    (BitVec.ofNat 16 p, if borrowedNow s = some p then sliceTakePage { t with integ := { t.integ with memSlice := none } } else t)
  | none => (BitVec.ofNat 16 (2 * 8192), s)

/-- A write to SS_ALLOC by keeper `k` (04 R198). -/
def allocWrite (s : State) (k v : Nat) : State :=
  let kp := s.keeper k
  if kp.allocNext.isSome then s
  else
    let tag := v % 256
    let r := if !leaseMine s.ss.lease k then (BitVec.ofNat 16 (3 * 8192), s)
      else if tag = 0 then (BitVec.ofNat 16 (4 * 8192), s)
      else allocate s (fld v 8 3) tag
    r.2.setKeeper k { r.2.keeper k with allocNext := some r.1 }

/-- The result of keeper `k`'s allocation becomes readable. -/
def allocDone (s : State) (k : Nat) : State :=
  match (s.keeper k).allocNext with
  | some w => s.setKeeper k { s.keeper k with allocRes := w, allocNext := none }
  | none => s

/-- The first failing check of a free, as its reason code, 0 if all pass (04 R200). -/
def freeCheck (s : State) (k p tag : Nat) : Nat :=
  let pg := s.page p
  if !leaseMine s.ss.lease k then 5
  else if pg.st = .absent ∨ pg.st = .locket ∨ pg.st = .retired then 4
  else if pg.st != .allocated && pg.st != .retirePending then 1
  else if pg.tag.toNat != tag then 2
  else if pageInRing s p then 3
  else 0

/-- A write to SS_FREE by keeper `k` (04 R200, R201). -/
def freeWrite (s : State) (k tag : Nat) : State :=
  let p := s.ss.freePage.toNat
  match freeCheck s k p tag with
  | 0 => s.setPage p ⟨if (s.page p).st = .retirePending then .retired else .free, 0⟩
  | r + 1 =>
    let ss := s.ss
    let ss := if bitAt ss.flt 0 then ss
      else { ss with freeReason := BitVec.ofNat 3 (r + 1), freeFpage := ss.freePage }
    { s with ss := { ss with flt := ss.flt ||| 1, freeFcnt := bump s 8 0x048 ss.freeFcnt 1 } }

/-- A write to SS_RETIRE (04 R202). -/
def retireWrite (s : State) (p : Nat) : State :=
  let pg := s.page p
  match pg.st with
  | .free => s.setPage p ⟨.retired, 0⟩
  | .allocated => s.setPage p { pg with st := .retirePending }
  | _ => s

def pageCode : PageState → Nat
  | .free => 0
  | .allocated => 1
  | .borrowed => 2
  | .retired => 3
  | .locket => 4
  | .retirePending => 5
  | .absent => 7

/-! ## Scrubbing (04 R206, R211) -/

/-- Words of a bank group. -/
def groupWords (s : State) : Nat := nPages s / 4 * 2048

/-- The group's scrubber reads its next word, or passes a page that is BORROWED when it comes to it; a word refused is skipped
(05 R236). -/
def scrubStep (s : State) (g : Nat) : State :=
  let pos := tget 0 s.ss.scrubPos g
  if !s.ss.scrubEn || groupWords s ≤ pos then s
  else
    let page := 4 * (pos / 2048) + g
    if pos % 2048 = 0 ∧ (s.page page).st = .borrowed then
      { s with ss := { s.ss with scrubPos := tput 0 s.ss.scrubPos g ((pos / 2048 + 1) * 2048), scrubSkip := bump s 8 0x056 s.ss.scrubSkip 1 } }
    else
      let s := if portBlocked s 9 then s else (readStore s (page * 2048 + pos % 2048)).2
      { s with ss := { s.ss with scrubPos := tput 0 s.ss.scrubPos g (pos + 1) } }

/-- Every group has read all of its words. -/
def lapDone (s : State) : Bool := s.ss.scrubEn && (List.range 4).all (fun g => groupWords s ≤ tget 0 s.ss.scrubPos g)

/-- A new lap begins. -/
def newLap (s : State) : State := { s with ss := { s.ss with scrubPos := [], scrubStart := s.now } }

/-- A write to SS_SCRUB_CTRL. -/
def scrubCtrlWrite (s : State) (v : Nat) : State :=
  let on := v.testBit 0
  let s' := if on != s.ss.scrubEn then newLap s else s
  { s' with ss := { s'.ss with scrubEn := on } }

/-- A write to SS_ISCRUB keeps the position and restarts the interval. -/
def iscrubWrite (s : State) (v : Nat) : State :=
  { s with ss := { s.ss with iscrubEn := v.testBit 15, iscrubRate := BitVec.ofNat 8 v, iscrubAt := s.cyc } }

/-- A poisoned image RAM word (offset of its first byte) is to be refetched (04 R206). -/
def askRefetch (s : State) (a : Nat) : State :=
  let w := a / 4
  if s.ss.refetches.any (fun x => x == w) then s else { s with ss := { s.ss with refetches := s.ss.refetches ++ [w] } }

/-! ## Registers (04 R214-R217) -/

def dctrlRead (st : Stream) : Nat :=
  b2n st.armed * 32768 + st.kind.toNat * 4096 + b2n st.overwrite * 2048 + st.mode.toNat * 256 + st.km1.toNat * 16 +
  b2n st.wmIe * 8 + b2n st.wmArm * 4
def dstatRead (st : Stream) : Nat :=
  b2n st.wmHit + b2n st.wmReceded * 2 + b2n st.dropped * 4 + b2n st.overwritten * 8 + b2n st.tailErr * 16 +
  b2n st.checking * 32 + st.armErr.toNat * 256

def pstateRead (s : State) (p : Nat) : Nat :=
  let pg := s.page p
  let tag := if pg.st = .allocated ∨ pg.st = .retirePending then pg.tag.toNat else 0
  pageCode pg.st * 8192 + b2n (pageArmed s p) * 256 + tag

/-- The SS_ block as keeper `k` reads it; a wide value whole at its lowest offset. -/
def ssRead (s : State) (k off : Nat) : Nat :=
  let kp := s.keeper k
  let st := s.strm kp.ssDsel.toNat
  let en := nth ⟨0, 0, 0, 0⟩ s.ss.elog kp.elogIdx.toNat
  if 0x100 ≤ off ∧ off < 0x120 then
    (List.range 16).foldl (fun a i => a + b2n (s.strm ((off - 0x100) / 2 * 16 + i)).wmHit * 2 ^ i) 0
  else if 0x200 ≤ off ∧ off < 0x380 then (tget 0 s.ss.psample ((off - 0x200) / 2)).toNat
  else if 0x400 ≤ off ∧ off < 0x580 then (tget 0 s.ss.pcoarse ((off - 0x400) / 2)).toNat
  else match off with
    | 0x000 => kp.ssDsel.toNat
    | 0x002 => dctrlRead st
    | 0x004 => st.rbase.toNat
    | 0x006 => st.rlen.toNat
    | 0x008 => st.head
    | 0x00C => st.tail
    | 0x010 => strmLevel st
    | 0x014 => st.wm.toNat
    | 0x018 => dstatRead st
    | 0x01A => st.drop.toNat
    | 0x020 => kp.ssRsel.toNat
    | 0x022 => (tget 0 s.ss.ring kp.ssRsel.toNat).toNat
    | 0x024 => kp.ssPsel.toNat
    | 0x026 => pstateRead s kp.ssPsel.toNat
    | 0x028 => freeCount s
    | 0x030 => leaseRead s.ss.lease k
    | 0x032 => s.ss.lease.tmo.toNat
    | 0x036 => if kp.allocNext.isSome then 8192 else kp.allocRes.toNat
    | 0x038 => s.ss.freePage.toNat
    | 0x040 => s.ss.flt.toNat + s.ss.lastOwner.val * 256
    | 0x042 => s.ss.fltIe.toNat
    | 0x044 => s.ss.freeReason.toNat
    | 0x046 => s.ss.freeFpage.toNat
    | 0x048 => s.ss.freeFcnt.toNat
    | 0x050 => b2n s.ss.scrubEn
    | 0x052 => s.ss.scrubLap.toNat
    | 0x056 => s.ss.scrubSkip.toNat
    | 0x058 => b2n s.ss.iscrubEn * 32768 + s.ss.iscrubRate.toNat
    | 0x05A => s.ss.imgAddr.toNat
    | 0x05E => s.ss.imgRep.toNat
    | 0x060 => s.ss.wramAddr.toNat
    | 0x064 => s.ss.wramCnt.toNat
    | 0x070 => kp.elogIdx.toNat
    | 0x072 => en.page
    | 0x074 => en.bank * 4096 + en.row
    | 0x076 => en.count.toNat
    | 0x078 => s.ss.elog.length
    | 0x07A => s.ss.elogOvf.toNat
    | _ => 0

/-- A write to the SS_ block by keeper `k`; a wide value whole at its lowest offset. -/
def ssWrite (s : State) (k off v : Nat) : State :=
  let kp := s.keeper k
  let n := kp.ssDsel.toNat
  let st := s.strm n
  let ss := s.ss
  if 0x200 ≤ off ∧ off < 0x380 then pairStreamWrite s false ((off - 0x200) / 2) v
  else if 0x400 ≤ off ∧ off < 0x580 then pairStreamWrite s true ((off - 0x400) / 2) v
  else match off with
    | 0x000 => s.setKeeper k { kp with ssDsel := BitVec.ofNat 8 v }
    | 0x002 => ctrlWrite s n v
    | 0x004 => if strmBound st then s else s.setStrm n { st with rbase := BitVec.ofNat 13 v }
    | 0x006 => if strmBound st then s else s.setStrm n { st with rlen := BitVec.ofNat 14 v }
    | 0x008 => s.setStrm n (headWrite st v)
    | 0x00C => s.setStrm n (tailWriteAt s n v)
    | 0x014 => s.setStrm n { st with wm := BitVec.ofNat 32 v }
    | 0x018 => s.setStrm n { st with wmHit := w1cBit st.wmHit v 0, wmReceded := w1cBit st.wmReceded v 1,
                                     dropped := w1cBit st.dropped v 2, overwritten := w1cBit st.overwritten v 3,
                                     tailErr := w1cBit st.tailErr v 4 }
    | 0x01A => s.setStrm n { st with drop := BitVec.ofNat 16 v }
    | 0x020 => s.setKeeper k { kp with ssRsel := BitVec.ofNat 13 v }
    | 0x022 =>
      if ss.streams.any (fun e => hasRange e.2 && inRange e.2 kp.ssRsel.toNat) then s
      else { s with ss := { ss with ring := tput 0 ss.ring kp.ssRsel.toNat (BitVec.ofNat 13 v) } }
    | 0x024 => s.setKeeper k { kp with ssPsel := BitVec.ofNat 13 v }
    | 0x030 => { s with ss := { ss with lease := leaseOp ss.lease (keeperFin k) s.cyc v } }
    | 0x032 => { s with ss := { ss with lease := { ss.lease with tmo := BitVec.ofNat 16 v } } }
    | 0x034 => allocWrite s k v
    | 0x038 => { s with ss := { ss with freePage := BitVec.ofNat 13 v } }
    | 0x03A => freeWrite s k (v % 256)
    | 0x03C => retireWrite s (v % 8192)
    | 0x040 => { s with ss := { ss with flt := w1c ss.flt v } }
    | 0x042 => { s with ss := { ss with fltIe := BitVec.ofNat 7 v } }
    | 0x048 => { s with ss := { ss with freeFcnt := BitVec.ofNat 16 v } }
    | 0x050 => scrubCtrlWrite s v
    | 0x056 => { s with ss := { ss with scrubSkip := BitVec.ofNat 16 v } }
    | 0x058 => iscrubWrite s v
    | 0x05E => { s with ss := { ss with imgRep := BitVec.ofNat 16 v } }
    | 0x064 => { s with ss := { ss with wramCnt := BitVec.ofNat 16 v } }
    | 0x070 => s.setKeeper k { kp with elogIdx := BitVec.ofNat 6 v }
    | 0x07A => { s with ss := { ss with elogOvf := BitVec.ofNat 16 v } }
    | 0x07C => if v.testBit 0 then { s with ss := { ss with elog := [], elogOvf := 0 } } else s
    | _ => s

/-- Wide values of the SS_ block: lowest offset and parts (00 R25). -/
def ssWide (off : Nat) : Option (Nat × Nat) :=
  match off with
  | 0x008 | 0x00A => some (0x008, 2)
  | 0x00C | 0x00E => some (0x00C, 2)
  | 0x010 | 0x012 => some (0x010, 2)
  | 0x014 | 0x016 => some (0x014, 2)
  | 0x052 | 0x054 => some (0x052, 2)
  | 0x05A | 0x05C => some (0x05A, 2)
  | 0x060 | 0x062 => some (0x060, 2)
  | _ => none

/-- SS_PSAMPnnn and SS_PCOARSEnnn of absent pairs (01 R50). -/
def ssAbsent (s : State) (off : Nat) : Bool :=
  if 0x200 ≤ off ∧ off < 0x380 then nPairs s ≤ (off - 0x200) / 2
  else if 0x400 ≤ off ∧ off < 0x580 then nPairs s ≤ (off - 0x400) / 2
  else false

end Sys2Proof.Machine
end

