-- ==== Sys2Proof/Machine/Arb.lean ====
section
/-! DEFINITION. The store arbiters: requests, grant order, parking, pre-emption, hold limit, hints, ARB_ registers (05). -/
namespace Sys2Proof.Machine

/-- Port `p`'s request at the group, while it is raised: a port that will not wait drops it (05 R236). -/
def arbRaised (s : State) (g : ArbGroup) (p : Nat) : Option Raised :=
  match tget none g.reqs p with
  | some r =>
    if (g.grant.any (fun b => b.owner == p)) || g.susp.any (fun b => b.owner == p) || r.q.stay.all (fun n => s.cyc < r.at_ + n) then some r
    else none
  | none => none

/-- The request that port `p` has raised. -/
def arbReq (s : State) (g : ArbGroup) (p : Nat) : Option ArbRequest := (arbRaised s g p).map (·.q)

/-- Port `p` holds the group; it holds it, or its burst is suspended. -/
def arbHolds (g : ArbGroup) (p : Nat) : Bool := g.grant.any (fun b => b.owner == p)
def arbInBurst (g : ArbGroup) (p : Nat) : Bool := arbHolds g p || g.susp.any (fun b => b.owner == p)

/-- An unblocked port requests. -/
def arbWants (s : State) (g : ArbGroup) (p : Nat) : Bool := (arbReq s g p).isSome && !portBlocked s p

/-- Who was granted last in each class, as the grant order looks back to it (05 R226). -/
structure ArbPos where
  lastNormal : Nat
  lastHigh : Nat
  lastClassHigh : Bool
  deriving DecidableEq, Repr

/-- The Normal ports in round-robin order (05 R225). -/
def normalPorts : List Nat := [2, 3, 4, 5, 6, 7, 8, 10]

/-- The first Normal port that wants, after the last one granted. -/
def pickNormal (wants : Nat → Bool) (last : Nat) : Option Nat :=
  ((normalPorts.filter (fun p => last < p)) ++ (normalPorts.filter (fun p => p ≤ last))).find? wants

/-- Ports 0 and 1 alternate. -/
def pickHigh (wants : Nat → Bool) (last : Nat) : Option Nat := (if last = 0 then [1, 0] else [0, 1]).find? wants

/-- The next grant (05 R224). -/
def pickGrant (wants : Nat → Bool) (pos : ArbPos) : Option Nat :=
  if wants 11 then some 11
  else match pickHigh wants pos.lastHigh, pickNormal wants pos.lastNormal with
    | some h, some n => some (if pos.lastClassHigh then n else h)
    | some h, none => some h
    | none, some n => some n
    | none, none => if wants 9 then some 9 else none

/-- The positions after a grant to `p`; ports 9 and 11 move none (05 R226). -/
def posAfter (pos : ArbPos) (p : Nat) : ArbPos :=
  if p < 2 then { pos with lastHigh := p, lastClassHigh := true }
  else if p = 9 ∨ p = 11 then pos
  else { pos with lastNormal := p, lastClassHigh := false }

def posOf (g : ArbGroup) : ArbPos := ⟨g.lastNormal, g.lastHigh, g.lastClassHigh⟩

/-- Grants placed before port `p` under the present requests (05 R238), within `fuel` grants. -/
def grantsBefore (wants : Nat → Bool) (pos : ArbPos) (p : Nat) : Nat → Nat
  | 0 => 0
  | fuel + 1 =>
    match pickGrant wants pos with
    | none => 0
    | some q => if q = p then 0 else 1 + grantsBefore (fun r => wants r && r != q) (posAfter pos q) p fuel

/-! ## The words of a burst by the cycle (05 R222) -/

/-- The cycles in which `n` words move, the first in `c`; `ws` are the wait cycles before the later ones. -/
def wordCycles (c : Nat) : Nat → List Nat → List Nat
  | 0, _ => []
  | n + 1, ws => c :: wordCycles (c + 1 + ws.headD 0) n ws.tail

/-- The cycles of the words that are left in a burst of the request `q`. -/
def burstCycles (b : Burst) (q : ArbRequest) : List Nat := wordCycles b.start b.left (q.waits.drop (q.len - b.left + 1))
/-- The cycle of the last word. -/
def lastCycle (b : Burst) (q : ArbRequest) : Nat := (burstCycles b q).getLastD b.start
/-- Words that have moved by the end of cycle `c`. -/
def movedBy (b : Burst) (q : ArbRequest) (c : Nat) : Nat := ((burstCycles b q).filter (fun w => w ≤ c)).length

/-- `n` words of a request from its word `i` on move: a write stores them, a read meets their marks. -/
def moveWords (s : State) (q : ArbRequest) (i n : Nat) : State :=
  let base := q.page.val * 2048 + q.start.val
  if q.write then (((q.data.drop i).take n).foldl (fun (acc : State × Nat) w => (putStoreWord acc.1 acc.2 w, acc.2 + 1)) (s, base + i)).1
  else (List.range n).foldl (fun s j => (readStore s (base + i + j)).2) s

/-- The request of the burst that holds the group. -/
def grantReq (g : ArbGroup) (b : Burst) : ArbRequest :=
  match tget none g.reqs b.owner with | some r => r.q | none => { page := 0, start := 0, len := b.left, write := false, data := [] }

/-! ## Hints (05 R238-R240) -/

/-- Words left in the current burst. -/
def wordsLeft (s : State) (g : ArbGroup) : Nat :=
  match g.grant with
  | some b => b.left - movedBy b (grantReq g b) s.cyc
  | none => 0

/-- The hint of port 6 or 7 (05 R238, R239; 15 R621). -/
def hintEst (s : State) (g : ArbGroup) (p : Nat) : Nat :=
  let en := if p = 6 then s.arb.hint6 else s.arb.hint7
  if !en || portBlocked s p then 0
  else if (arbReq s g 11).isSome || arbHolds g 11 then 1023
  else if (arbReq s g p).isNone || arbHolds g p || (g.parked && g.owner == p) then 0
  else min 1022 (wordsLeft s g + 17 * grantsBefore (fun r => arbWants s g r && !arbHolds g r) (posOf g) p 12 + 1)

/-- HOLD and THR as they act: below 17 as 17. -/
def holdLimit (s : State) : Nat := max 17 s.arb.holdMax.toNat
def hintThr (s : State) : Nat := max 17 s.arb.hintThr.toNat

/-- Port 6 or 7 drops a request whose estimate exceeds the threshold, but not a burst (05 R240). -/
def hintDrop (s : State) (gi p : Nat) : State :=
  let g := s.agrp gi
  let e := hintEst s g p
  match arbReq s g p with
  | some q =>
    if hintThr s < e && !arbInBurst g p then
      s.setAgrp gi { g with reqs := tput none g.reqs p none, dropped := tput none g.dropped p (some (q, s.cyc + (e - 17))) }
    else s
  | none => s

def hintDrops (s : State) (gi : Nat) : State := hintDrop (hintDrop s gi 6) gi 7

/-! ## Grants -/

/-- The first word of the group's next grant to `q` moves in cycle `c` plus its wait cycles. -/
def firstWord (q : ArbRequest) (c : Nat) : Nat := c + q.waits.headD 0

/-- Port `p` is granted its request `q` at a burst boundary in cycle `c`: the grant cycle (05 R222, R226). -/
def grantAt (s : State) (g : ArbGroup) (p : Nat) (q : ArbRequest) (c : Nat) : ArbGroup :=
  let pos := posAfter (posOf g) p
  { g with grant := some { owner := p, left := q.len, hold1 := c, start := firstWord q (c + 1), holdMax := holdLimit s, cycle := true },
           parked := false, owner := p, lastNormal := pos.lastNormal, lastHigh := pos.lastHigh, lastClassHigh := pos.lastClassHigh }

/-- Port `p` moves its first word in cycle `c` without a grant cycle: a parked owner, or port 11 (05 R227, R230, R231). -/
def grantAtOnce (s : State) (g : ArbGroup) (p : Nat) (q : ArbRequest) (c : Nat) : ArbGroup :=
  { g with grant := some { owner := p, left := q.len, hold1 := firstWord q c, start := firstWord q c, holdMax := holdLimit s, cycle := false },
           parked := false, owner := p }

/-- Another port than `p` requests at the group. -/
def othersWant (s : State) (g : ArbGroup) (p : Nat) : Bool := (List.range 12).any (fun q => q != p && arbWants s g q)

/-- Port 11 has stopped: the suspended burst resumes in the cycle after port 11's last word, its hold time as it was
(05 R231, R232). -/
def resumed (g : ArbGroup) (b : Burst) : ArbGroup :=
  { g with grant := some { b with hold1 := b.hold1 + (g.freeAt - 1 - b.start), start := g.freeAt, cycle := false }, parked := false,
           owner := b.owner, susp := none }

/-- The group as it stands in this cycle, where port 11 has let the cycle after its last word pass without a request. -/
def settled (s : State) (g : ArbGroup) : ArbGroup :=
  match g.susp with
  | some b => if g.grant.isNone && (arbReq s g 11).isNone && dueCyc s g.freeAt then resumed g b else g
  | none => g

/-- A request can be raised: the page is present and in the group, the port's unit exists, and port 11 is active. -/
def arbMayRaise (s : State) (gi p : Nat) (q : ArbRequest) : Bool :=
  decide (q.page.val < nPages s) && pageGroup s q.page == gi && (arbReq s (s.agrp gi) p).isNone &&
  !((p == 4 || p == 5) && nKeepers s == 2) && (p != 11 || s.pwr.port11)

/-- A burst that its parked owner has begun in this very cycle: another port that requests in it takes the advantage away. -/
def parkedNow (s : State) (g : ArbGroup) : Bool :=
  g.susp.isNone && g.grant.any (fun b => !b.cycle && b.owner != 11 &&
    (match tget none g.reqs b.owner with | some r => r.at_ == s.cyc | none => false))

/-- Port 11's request suspends the burst `b`: the words up to the one in progress have moved (05 R230). -/
def preempt (s : State) (gi : Nat) (g : ArbGroup) (b : Burst) (q : ArbRequest) : State :=
  let r := grantReq g b
  let n := movedBy b r s.cyc
  let t := moveWords s r (r.len - b.left) n
  if n = b.left then
    t.setAgrp gi (grantAtOnce s { g with grant := none, reqs := tput none g.reqs b.owner none } 11 q (s.cyc + 2))
  else t.setAgrp gi (grantAtOnce s { g with susp := some { b with left := b.left - n, start := s.cyc } } 11 q (s.cyc + 2))

/-- Port 11 raises its request `q`, which the group `g` already holds (05 R227, R230, R231). -/
def raiseEleven (s : State) (gi : Nat) (g : ArbGroup) (q : ArbRequest) : State :=
  match g.grant with
  | some b => if b.owner = 11 then s.setAgrp gi g else preempt s gi g b q
  | none =>
    if g.susp.isSome || (g.parked && g.owner == 11) then s.setAgrp gi (grantAtOnce s g 11 q (max s.cyc g.freeAt))
    else s.setAgrp gi g

/-- A port raises its request (05 R221, R227, R230). -/
def arbRaise (s : State) (gi p : Nat) (q : ArbRequest) : State :=
  if !arbMayRaise s gi p q then s
  else
    let g := settled s (s.agrp gi)
    let g := { g with reqs := tput none g.reqs p (some ⟨q, s.cyc⟩) }
    if p = 11 then hintDrops (raiseEleven s gi g q) gi
    else if portBlocked s p then s.setAgrp gi g
    else if g.parked && g.owner == p && !othersWant s g p && g.grant.isNone && g.susp.isNone then
      s.setAgrp gi (grantAtOnce s g p q (max s.cyc g.freeAt))
    else if parkedNow s g then hintDrops (s.setAgrp gi { g with grant := none, parked := true }) gi
    else hintDrops (s.setAgrp gi g) gi

/-- The arbiter grants at a burst boundary, in the first cycle that can be a grant cycle (05 R224). -/
def arbGrant (s : State) (gi : Nat) : State :=
  if (s.agrp gi).grant.isSome then s else
  let s := passBus s (s.agrp gi).freeAt
  let g := settled s (s.agrp gi)
  if g.grant.isSome || g.susp.isSome then s.setAgrp gi g
  else match pickGrant (arbWants s g) (posOf g) with
    | some p =>
      (match arbReq s g p with
       | some q => hintDrops (s.setAgrp gi (grantAt s g p q s.cyc)) gi
       | none => s)
    | none => s

/-- The holder drops its request after its grant cycle and before its first word: one dead cycle (05 R229). -/
def arbWithdraw (s : State) (gi : Nat) : State :=
  match (s.agrp gi).grant with
  | some b =>
    let s := if b.cycle then passBus s (b.hold1 + 1) else s
    let g := s.agrp gi
    if b.cycle && s.cyc ≤ b.start then
      s.setAgrp gi { g with grant := none, parked := false, reqs := tput none g.reqs b.owner none, freeAt := s.cyc + 1 }
    else s
  | none => s

/-- The burst ends within its hold limit; port 11's always does (05 R232-R234). -/
def inHold (b : Burst) (q : ArbRequest) : Bool := b.owner == 11 || decide (lastCycle b q < b.hold1 + b.holdMax)

/-- The last word moves (05 R227, R234). -/
def arbComplete (s : State) (gi : Nat) : State :=
  match (s.agrp gi).grant with
  | some b =>
    let q := grantReq (s.agrp gi) b
    if !inHold b q then s
    else
      let s := passBus s (lastCycle b q)
      let g := s.agrp gi
      let g := { g with grant := none, reqs := tput none g.reqs b.owner none, freeAt := lastCycle b q + 1 }
      (moveWords s q (q.len - b.left) b.left).setAgrp gi { g with parked := g.susp.isNone && !othersWant s g b.owner }
  | none => s

/-- Port 11 stops and the suspended burst resumes (05 R231, R232). -/
def arbResume (s : State) (gi : Nat) : State :=
  let g := s.agrp gi
  if g.susp.isSome && g.grant.isNone then
    let s := passBus s g.freeAt
    s.setAgrp gi (settled s (s.agrp gi))
  else s

/-- A cut-off falls at the end of the hold limit: the last word has not moved then (05 R233). -/
def arbCuttable (g : ArbGroup) : Bool := g.grant.any (fun b => !inHold b (grantReq g b))

/-- The words of the burst's request that have moved by the end of its hold limit (05 R233). -/
def cutMoved (b : Burst) (q : ArbRequest) : Nat := q.len - b.left + movedBy b q (b.hold1 + b.holdMax - 1)

/-- A waiting request of a port that is being blocked counts as raised now (05 R235). -/
def raisedNow (s : State) (g : ArbGroup) (p : Nat) : ArbGroup :=
  match arbRaised s g p with
  | some r => if arbInBurst g p then g
    else { g with reqs := tput none g.reqs p (some ⟨{ r.q with stay := r.q.stay.map (fun n => r.at_ + n - s.cyc) }, s.cyc⟩) }
  | none => g

/-- The cut-off of the burst `b` at the arbiter: moved words stay written, the port is blocked, the capture is taken
(05 R233, R235). -/
def arbCut (s : State) (gi : Nat) (b : Burst) : State :=
  let q := grantReq (s.agrp gi) b
  let endAt := b.hold1 + b.holdMax
  let s := passBus s endAt
  let n := movedBy b q (endAt - 1)
  let s := moveWords s q (q.len - b.left) n
  let g := s.agrp gi
  let g := { g with grant := none, parked := false, reqs := tput none g.reqs b.owner none, freeAt := endAt }
  let g := if g.cutValid then g
    else { g with cutValid := true, cutPort := BitVec.ofNat 4 b.owner, cutLeft := BitVec.ofNat 5 (b.left - n) }
  let s := s.setAgrp gi g
  let s := { s with arb := { s.arb with block := setBitTo s.arb.block b.owner true, cutCnt := bump s 9 0x00A s.arb.cutCnt 1 } }
  (List.range 4).foldl (fun s h => s.setAgrp h (raisedNow s (s.agrp h) b.owner)) s

/-- A request of a blocked port that waits to be refused at the group, with its refusal's cycle (05 R236). -/
def arbRefusable (s : State) (gi p : Nat) : Option Raised :=
  if p < 11 && portBlocked s p && !arbInBurst (s.agrp gi) p then arbRaised s (s.agrp gi) p else none

/-- Dropped requests whose time has come are raised again (05 R240). -/
def hintAgain (s : State) (gi p : Nat) : State :=
  match tget none (s.agrp gi).dropped p with
  | some (q, at_) =>
    let s := passBus s at_
    let g := s.agrp gi
    arbRaise (s.setAgrp gi { g with dropped := tput none g.dropped p none }) gi p q
  | none => s

/-! ## Bursts within one step -/

/-- A burst of `n` words that port `p` makes at a group within one step: granted at once, and parked after it where no other port
requests (05 R221, R226, R227; log 25). -/
def arbServe (s : State) (gi p n : Nat) : State :=
  let g := settled s (s.agrp gi)
  if g.grant.isSome || g.susp.isSome then s
  else
    let quick := g.parked && g.owner == p && !othersWant s g p
    let pos := if quick then posOf g else posAfter (posOf g) p
    s.setAgrp gi { g with parked := !othersWant s g p, owner := p, freeAt := max s.cyc g.freeAt + b2n (!quick) + n,
                          lastNormal := pos.lastNormal, lastHigh := pos.lastHigh, lastClassHigh := pos.lastClassHigh }

/-! ## Registers (05 R244-R249) -/

def arbGroupRead (s : State) (gi off : Nat) : Nat :=
  let g := s.agrp gi
  match off with
  | 0x00 => b2n g.grant.isSome * 32768 + b2n g.parked * 16384 + b2n g.susp.isSome * 8192 + g.owner
  | 0x02 => (List.range 12).foldl (fun a p => a + b2n (arbReq s g p).isSome * 2 ^ p) 0
  | 0x04 => hintEst s g 6
  | 0x06 => hintEst s g 7
  | 0x08 => b2n g.cutValid * 32768 + g.cutPort.toNat * 256 + g.cutLeft.toNat
  | _ => 0

def arbRead (s : State) (off : Nat) : Nat :=
  if 0x100 ≤ off ∧ off < 0x180 then arbGroupRead s ((off - 0x100) / 0x20) (off % 0x20)
  else match off with
    | 0x000 => b2n s.arb.hint7 * 2 + b2n s.arb.hint6
    | 0x002 => s.arb.holdMax.toNat
    | 0x004 => s.arb.block.toNat
    | 0x006 => s.arb.cutIe.toNat
    | 0x008 => s.arb.hintThr.toNat
    | 0x00A => s.arb.cutCnt.toNat
    | _ => 0

/-- A setting of the hints changes: the estimates are compared afresh at every group (05 R240). -/
def hintsNow (s : State) : State := (List.range 4).foldl hintDrops s

def arbWrite (s : State) (off v : Nat) : State :=
  let a := s.arb
  if 0x100 ≤ off ∧ off < 0x180 then
    (if off % 0x20 = 8 then
      let g := s.agrp ((off - 0x100) / 0x20)
      s.setAgrp ((off - 0x100) / 0x20) { g with cutValid := w1cBit g.cutValid v 15 }
     else s)
  else match off with
    | 0x000 => hintsNow { s with arb := { a with hint7 := v.testBit 1, hint6 := v.testBit 0 } }
    | 0x002 => { s with arb := { a with holdMax := BitVec.ofNat 10 v } }
    | 0x004 => { s with arb := { a with block := w1c a.block v } }
    | 0x006 => { s with arb := { a with cutIe := BitVec.ofNat 11 v } }
    | 0x008 => hintsNow { s with arb := { a with hintThr := BitVec.ofNat 10 v } }
    | 0x00A => { s with arb := { a with cutCnt := BitVec.ofNat 16 v } }
    | _ => s

end Sys2Proof.Machine
end

