-- ==== Sys2Proof/Machine/Rc.lean ====
section
/-! DEFINITION. The recognizers: baselines, impulse detector, taps, footsteps, free-fall, tip, events, RC_ registers (06). -/
namespace Sys2Proof.Machine

/-! ## Parameters as they act (06 R281) -/

def rcSh (p : PodParams) : Nat := max 6 p.sh.toNat
def rcOn (p : PodParams) : Nat := max 1 p.impOn.toNat
def rcOff (p : PodParams) : Nat := min (max 1 p.impOff.toNat) (rcOn p)
def rcEndQ (p : PodParams) : Nat := max 1 p.endQ.toNat
def rcFsCount (p : PodParams) : Nat := max 2 p.fsCount.toNat
def rcFfMin (p : PodParams) : Nat := max 1 p.ffMin.toNat
def rcTipRun (p : PodParams) : Nat := 64 * max 1 p.tipMin.toNat

/-- The integer baseline b of an accumulator (06 R257). -/
def baseOf (b : Int) : Int := (b + 32768) / 65536

/-- The accumulator after value `x` (06 R258). -/
def baseStep (b x : Int) (sh : Nat) : Int := b + (x * 65536 - b) / 2 ^ sh

def absInt (v : Int) : Int := (v.natAbs : Int)
def max3 (a b c : Nat) : Nat := max a (max b c)

/-! ## Events (06 R275, R276) -/

/-- An event is placed in the queue, or discarded when it is full. -/
def rcPut (s : State) (pod : Fin 32) (code e a b : Nat) : State :=
  if s.rc.queue.length < 64 then
    let s := if s.fwWrote 10 (0x136 + 0x40 * pod.val) then s else s.setPod pod { s.pod pod with evCnt := (s.pod pod).evCnt + 1 }
    { s with rc := { s.rc with queue := s.rc.queue ++ [⟨pod, BitVec.ofNat 8 code, e, BitVec.ofNat 16 a, BitVec.ofNat 16 b⟩] } }
  else { s with rc := { s.rc with qovf := bump s 10 0x004 s.rc.qovf 1, flt := s.rc.flt ||| 1 } }

/-- The instant of the pod's decisions, in E. -/
def podE (pd : Pod) : Nat := pd.now * 128 % 2 ^ 52

def rcEvent (s : State) (pod : Fin 32) (code a b : Nat) : State := rcPut s pod code (podE (s.pod pod)) a b

/-! ## One recognizer instant (06 R258-R261, R269-R271) -/

/-- The impulse detector with a D (06 R261); what comes due. -/
def detStep (q : PodParams) (n d : Nat) : Det → Det × List RcDue
  | .idle => if rcOn q ≤ d then (.active n d n 0, []) else (.idle, [])
  | .active s pk e qu =>
    if rcOff q ≤ d then
      (.active s (max pk d) n 0, if 4095 ≤ n - s + 1 then [.long (max pk d)] else [])
    else (.active s pk e (qu + 1), if rcEndQ q ≤ qu + 1 then [.impulseEnd] else [])
  | .blocked qu =>
    if d < rcOff q then (.blocked (qu + 1), if rcEndQ q ≤ qu + 1 then [.blockedEnd] else [])
    else (.blocked 0, [])

/-- The count's deadline has passed and no impulse is ACTIVE (06 R268). -/
def stepsOver (pd : Pod) : Bool :=
  (match pd.lastCounted with | some l => pd.inForce.fsImax.toNat < pd.now - l | none => false) &&
  (match pd.det with | .active _ _ _ _ => false | _ => true)

/-- Free fall at a valid instant with `f` (06 R269, R270). -/
def fallStep (pd : Pod) (f : Nat) : Pod × List RcDue :=
  let q := pd.inForce
  if !q.ffEn then ({ pd with ffRun := 0, falling := false }, [])
  else if f < q.ffThr.toNat then
    let low := if pd.ffRun = 0 then f else min pd.ffLow f
    let pd := { pd with ffRun := pd.ffRun + 1, ffLow := low }
    (pd, if !pd.falling && rcFfMin q ≤ pd.ffRun then [.fall] else [])
  else if pd.falling then (pd, [.fallEnd f])
  else ({ pd with ffRun := 0 }, [])

/-- The departures of the three axes from the references (06 R271). -/
def tipDeps (pd : Pod) : Nat × Nat × Nat :=
  ((baseOf pd.bX - pd.inForce.refX.toInt).natAbs, (baseOf pd.bY - pd.inForce.refY.toInt).natAbs,
   (baseOf pd.bZ - pd.inForce.refZ.toInt).natAbs)

/-- The tip check at an instant that has a D. -/
def tipStep (pd : Pod) : Pod × List RcDue :=
  let q := pd.inForce
  if !q.tipEn then ({ pd with tipRun := 0, tipped := false }, [])
  else
    let d := tipDeps pd
    let g := max3 d.1 d.2.1 d.2.2
    let axis := if d.1 = g then 0 else if d.2.1 = g then 1 else 2
    let counts := if pd.tipped then decide (g ≤ q.tipThr.toNat) else decide (q.tipThr.toNat < g)
    let run := if counts then pd.tipRun + 1 else 0
    let pd := { pd with tipRun := run }
    (pd, if rcTipRun q ≤ run then (if pd.tipped then [.tipClear g] else [.tip axis g]) else [])

/-- A void instant (06 R270, R273). -/
def voidInstant (pd : Pod) (n : Nat) : Pod :=
  let pd := { pd with now := n, fresh := true, settleEnd := none, det := .idle, d := 0 }
  let pd := if pd.inForce.ffEn then pd else { pd with falling := false }
  let pd := if pd.inForce.tipEn then pd else { pd with tipped := false, tipRun := 0 }
  let steps := if stepsOver pd then [RcDue.stepsEnd] else []
  if pd.falling then { pd with dues := steps ++ [.fallEnd 0xFFFF] } else { pd with ffRun := 0, dues := steps }

/-- The references take the integer baselines (06 R272). -/
def takeRefs (pd : Pod) : Pod :=
  let x := BitVec.ofInt 16 (baseOf pd.bX)
  let y := BitVec.ofInt 16 (baseOf pd.bY)
  let z := BitVec.ofInt 16 (baseOf pd.bZ)
  { pd with prm := { pd.prm with refX := x, refY := y, refZ := z }, inForce := { pd.inForce with refX := x, refY := y, refZ := z },
            refcapInForce := false }

/-- A valid instant with the coarse values of the three axes. -/
def validInstant (pd : Pod) (n : Nat) (x y z : Int) : Pod :=
  let q := pd.inForce
  let sh := rcSh q
  let f := max3 x.natAbs y.natAbs z.natAbs
  if pd.fresh then
    let pd := { pd with now := n, fresh := false, bX := x * 65536, bY := y * 65536, bZ := z * 65536,
                        settleEnd := some (n + 2 ^ sh), d := 0 }
    let fs := fallStep pd f
    let pd := if q.tipEn then fs.1 else { fs.1 with tipped := false, tipRun := 0 }
    { pd with dues := (if stepsOver pd then [.stepsEnd] else []) ++ fs.2 }
  else
    let dd := max3 (x - baseOf pd.bX).natAbs (y - baseOf pd.bY).natAbs (z - baseOf pd.bZ).natAbs
    let settling : Bool := match pd.settleEnd with | some t => decide (n < t) | none => false
    let ended : Bool := match pd.settleEnd with | some t => decide (t ≤ n) | none => false
    let pd := { pd with now := n, bX := baseStep pd.bX x sh, bY := baseStep pd.bY y sh, bZ := baseStep pd.bZ z sh,
                        d := if settling then 0 else dd }
    let pd := if pd.refcapInForce && !settling then takeRefs pd else pd
    let dt := if settling then (pd.det, []) else detStep q n dd pd.det
    let pd := { pd with det := dt.1 }
    let fs := fallStep pd f
    let ts := if settling then (if q.tipEn then (fs.1, []) else ({ fs.1 with tipped := false, tipRun := 0 }, [])) else tipStep fs.1
    let steps := if stepsOver pd then [RcDue.stepsEnd] else []
    { ts.1 with dues := (if ended then [.settlingEnd] else []) ++ dt.2 ++ steps ++ fs.2 ++ ts.2 }

/-- The coarse value of a pair at instant `t` for the recognizers: none where the instant is void for it (06 R256). -/
def coarseFor (s : State) (p t : Nat) : Option Int :=
  match (s.pdc p).coarseNow with
  | some (t', v, fl) => if t' = t ∧ fl &&& (flgFault ||| flgHold) = 0 then some v else none
  | none => none

/-- One pod at swap instant `t` (06 R254-R274). REFCAP also acts on a pod that is not enabled: its baselines are those it had
(DESIGN CHOICE, log 61). -/
def podInstant (s : State) (t : Nat) (pod : Nat) : State :=
  let pd := s.pod pod
  let vals := (coarseFor s (6 * pod) t, coarseFor s (6 * pod + 1) t, coarseFor s (6 * pod + 2) t)
  let isVoid := match vals with | (some _, some _, some _) => false | _ => true
  let pd := { pd with void := isVoid, now := t / 128, dues := [] }
  let pd := if !pd.inForce.en then pd
    else match vals with
      | (some x, some y, some z) => validInstant pd (t / 128) x y z
      | _ => voidInstant pd (t / 128)
  let pd := if pd.refcapInForce && !pd.inForce.en && !isVoid then takeRefs pd else pd
  if pd.refcapInForce then
    { s with rc := { s.rc with flt := s.rc.flt ||| 2 } }.setPod pod { pd with refcapInForce := false }
  else s.setPod pod pd

/-- The swap instant: parameters come into force, EN = 0 clears, EN = 1 starts (06 R264, R272, R274). -/
def podSwap (pd : Pod) : Pod :=
  let was := pd.inForce.en
  let pd := { pd with inForce := pd.prm, refcapInForce := pd.refcap || pd.refcapInForce, refcap := false }
  if !pd.prm.en then
    { pd with settleEnd := none, det := .idle, d := 0, refTap := none, count := 0, firstCounted := 0, lastCounted := none,
              train := false, ffRun := 0, ffLow := 0, falling := false, tipRun := 0, tipped := false, fresh := true }
  else if !was then { pd with fresh := true } else pd

/-! ## Decisions that come due (06 R259-R271) -/

/-- The count ends; an active train emits STEPS_END (06 R268). -/
def endSteps (s : State) (pod : Fin 32) : State :=
  let pd := s.pod pod
  let s := if pd.train then rcEvent s pod 0x12 pd.count (min 65535 ((pd.now - pd.firstCounted) / 64)) else s
  s.setPod pod { s.pod pod with count := 0, lastCounted := none, train := false }

/-- A footstep impulse that started at `st` (06 R266, R267). -/
def footstep (s : State) (pod : Fin 32) (st : Nat) : State :=
  let pd := s.pod pod
  let q := pd.inForce
  match pd.lastCounted with
  | some l =>
    let i := st - l
    if q.fsImax.toNat < i then
      let s := endSteps s pod
      s.setPod pod { s.pod pod with count := 1, lastCounted := some st, firstCounted := st }
    else if i < q.fsImin.toNat then s
    else
      let c := min 255 (pd.count + 1)
      let s := s.setPod pod { pd with count := c, lastCounted := some st }
      if pd.train then (if q.fsEach then rcEvent s pod 0x11 c i else s)
      else if rcFsCount q ≤ c then rcEvent (s.setPod pod { s.pod pod with train := true }) pod 0x10 c i
      else s
  | none => s.setPod pod { pd with count := 1, lastCounted := some st, firstCounted := st }

/-- A tap with peak `pk`, width `w`, start `st` (06 R265). -/
def tap (s : State) (pod : Fin 32) (pk w st : Nat) : State :=
  let pd := s.pod pod
  let q := pd.inForce
  let dbl := match pd.refTap with
    | some r => q.dtEn && decide (q.dtGmin.toNat ≤ st - r) && decide (st - r ≤ q.dtGmax.toNat)
    | none => false
  if dbl then rcEvent (s.setPod pod { pd with refTap := none }) pod 0x02 pk (st - pd.refTap.getD 0)
  else rcEvent (s.setPod pod { pd with refTap := some st }) pod 0x01 pk w

/-- An ended impulse is classified (06 R262). -/
def classify (s : State) (pod : Fin 32) (st pk w : Nat) : State :=
  let pd := s.pod pod
  let q := pd.inForce
  if q.tapEn && decide (q.tapPeak.toNat ≤ pk) && decide (w ≤ q.tapWmax.toNat) && !(q.fsSupp && pd.train) then tap s pod pk w st
  else if q.fsEn && decide (q.fsPeak.toNat ≤ pk) && decide (q.fsWmin.toNat ≤ w) && decide (w ≤ q.fsWmax.toNat) then footstep s pod st
  else { s with rc := { s.rc with unclass := bump s 10 0x006 s.rc.unclass 1 } }

/-- After an impulse has ended, the count whose deadline has passed ends too (06 R268). -/
def thenSteps (s : State) (pod : Fin 32) : State :=
  let pd := s.pod pod
  if stepsOver pd && !pd.dues.any (fun d => d == .stepsEnd) then s.setPod pod { pd with dues := .stepsEnd :: pd.dues } else s

/-- One decision carried out. -/
def rcDecide (s : State) (pod : Fin 32) (d : RcDue) : State :=
  let pd := s.pod pod
  match d with
  | .settlingEnd => s.setPod pod { pd with settleEnd := none }
  | .long pk => thenSteps (rcEvent (s.setPod pod { pd with det := .blocked 0 }) pod 0x30 pk 4095) pod
  | .impulseEnd =>
    (match pd.det with
     | .active st pk e _ => thenSteps (classify (s.setPod pod { pd with det := .idle }) pod st pk (e - st + 1)) pod
     | _ => s)
  | .blockedEnd => s.setPod pod { pd with det := .idle }
  | .stepsEnd => endSteps s pod
  | .fall => rcEvent (s.setPod pod { pd with falling := true }) pod 0x20 pd.ffLow 0
  | .fallEnd f => rcEvent (s.setPod pod { pd with falling := false, ffRun := 0 }) pod 0x21 (min 65535 pd.ffRun) f
  | .tip axis g => rcEvent (s.setPod pod { pd with tipped := true, tipRun := 0 }) pod 0x22 axis g
  | .tipClear g => rcEvent (s.setPod pod { pd with tipped := false, tipRun := 0 }) pod 0x23 0 g

/-- The first decision of a pod that is due, carried out. -/
def rcNext (s : State) (pod : Fin 32) : State :=
  match (s.pod pod).dues with
  | [] => s
  | d :: rest => rcDecide (s.setPod pod { s.pod pod with dues := rest }) pod d

/-- Up to `fuel` decisions of a pod. -/
def rcDrain (s : State) (pod : Fin 32) : Nat → State
  | 0 => s
  | n + 1 => if (s.pod pod).dues = [] then s else rcDrain (rcNext s pod) pod n

/-- Every decision of the pod that is due; an instant brings at most eight. -/
def rcFlushPod (s : State) (pod : Fin 32) : State := rcDrain s pod 8

/-- A pod number as `Fin 32`. -/
def podFin (n : Nat) : Fin 32 := ⟨n % 32, Nat.mod_lt n (by decide)⟩

/-- Every decision that is due, in ascending pod order (06 R276). -/
def rcFlush (s : State) : State := (List.range (nPods s)).foldl (fun s p => rcFlushPod s (podFin p)) s

/-- Decisions of the pod before the first that `is` names, then that one. -/
def rcUpTo (is : RcDue → Bool) (s : State) (pod : Fin 32) : Nat → State
  | 0 => s
  | n + 1 =>
    match (s.pod pod).dues with
    | [] => s
    | d :: _ => if is d then rcNext s pod else rcUpTo is (rcNext s pod) pod n

/-- The command for a decision of pod `pod`: nothing unless it is due; events enter in the order of 06 R276. -/
def rcCommand (is : RcDue → Bool) (s : State) (pod : Fin 32) : State :=
  let may := fun d => is d || (match d with | .impulseEnd => is .stepsEnd | .long _ => is .stepsEnd | _ => false)
  if !(s.pod pod).dues.any may then s
  else
    let s := (List.range pod.val).foldl (fun s p => rcFlushPod s (podFin p)) s
    rcUpTo is s pod 8

/-! ## Registers (06 R279, R281) -/

def podMap (s : State) (f : Pod → Bool) (w : Nat) : Nat :=
  (List.range 16).foldl (fun a i => a + b2n (f (s.pod (16 * w + i))) * 2 ^ i) 0

def cfgRead (q : PodParams) : Nat :=
  b2n q.en * 32768 + b2n q.ev * 16384 + b2n q.tapEn * 8192 + b2n q.dtEn * 4096 + b2n q.fsEn * 2048 + b2n q.fsEach * 1024 +
  b2n q.fsSupp * 512 + b2n q.ffEn * 256 + q.stream.toNat

def detCode : Det → Nat
  | .idle => 0
  | .active _ _ _ _ => 1
  | .blocked _ => 2

def podStateRead (pd : Pod) : Nat :=
  pd.count * 256 + detCode pd.det * 32 + b2n pd.settleEnd.isSome * 16 + b2n pd.train * 8 + b2n pd.falling * 4 +
  b2n pd.tipped * 2 + b2n pd.void

def word16 (v : Int) : Nat := (BitVec.ofInt 16 v).toNat

def podRead (pd : Pod) (off : Nat) : Nat :=
  let q := pd.prm
  match off with
  | 0x00 => cfgRead q
  | 0x02 => b2n q.tipEn * 256 + q.sh.toNat
  | 0x04 => q.impOn.toNat
  | 0x06 => q.impOff.toNat
  | 0x08 => q.endQ.toNat
  | 0x0A => q.tapPeak.toNat
  | 0x0C => q.tapWmax.toNat
  | 0x0E => q.dtGmin.toNat
  | 0x10 => q.dtGmax.toNat
  | 0x12 => q.fsPeak.toNat
  | 0x14 => q.fsWmin.toNat
  | 0x16 => q.fsWmax.toNat
  | 0x18 => q.fsImin.toNat
  | 0x1A => q.fsImax.toNat
  | 0x1C => q.fsCount.toNat
  | 0x1E => q.ffThr.toNat
  | 0x20 => q.ffMin.toNat
  | 0x22 => q.tipThr.toNat
  | 0x24 => q.tipMin.toNat
  | 0x26 => q.refX.toNat
  | 0x28 => q.refY.toNat
  | 0x2A => q.refZ.toNat
  | 0x2C => word16 (baseOf pd.bX)
  | 0x2E => word16 (baseOf pd.bY)
  | 0x30 => word16 (baseOf pd.bZ)
  | 0x32 => podStateRead pd
  | 0x34 => pd.d
  | 0x36 => pd.evCnt.toNat
  | _ => 0

/-- A write of RC_Ppp_CFG (06 R274, R281). -/
def podCfgWrite (pd : Pod) (v : Nat) : Pod :=
  { pd with prm := { pd.prm with en := v.testBit 15, ev := v.testBit 14, tapEn := v.testBit 13, dtEn := v.testBit 12,
                                 fsEn := v.testBit 11, fsEach := v.testBit 10, fsSupp := v.testBit 9, ffEn := v.testBit 8,
                                 stream := BitVec.ofNat 8 v } }

/-- A write of RC_Ppp_BASE; REFCAP is write-only (06 R272). -/
def podBaseWrite (pd : Pod) (v : Nat) : Pod :=
  { pd with prm := { pd.prm with tipEn := v.testBit 8, sh := BitVec.ofNat 4 v }, refcap := pd.refcap || v.testBit 15 }

def podWrite (pd : Pod) (off v : Nat) : Pod :=
  let q := pd.prm
  let w : Word := BitVec.ofNat 16 v
  let t : BitVec 12 := BitVec.ofNat 12 v
  match off with
  | 0x00 => podCfgWrite pd v
  | 0x02 => podBaseWrite pd v
  | 0x04 => { pd with prm := { q with impOn := t } }
  | 0x06 => { pd with prm := { q with impOff := t } }
  | 0x08 => { pd with prm := { q with endQ := t } }
  | 0x0A => { pd with prm := { q with tapPeak := t } }
  | 0x0C => { pd with prm := { q with tapWmax := t } }
  | 0x0E => { pd with prm := { q with dtGmin := w } }
  | 0x10 => { pd with prm := { q with dtGmax := w } }
  | 0x12 => { pd with prm := { q with fsPeak := t } }
  | 0x14 => { pd with prm := { q with fsWmin := t } }
  | 0x16 => { pd with prm := { q with fsWmax := t } }
  | 0x18 => { pd with prm := { q with fsImin := w } }
  | 0x1A => { pd with prm := { q with fsImax := w } }
  | 0x1C => { pd with prm := { q with fsCount := BitVec.ofNat 8 v } }
  | 0x1E => { pd with prm := { q with ffThr := t } }
  | 0x20 => { pd with prm := { q with ffMin := w } }
  | 0x22 => { pd with prm := { q with tipThr := t } }
  | 0x24 => { pd with prm := { q with tipMin := w } }
  | 0x26 => { pd with prm := { q with refX := w } }
  | 0x28 => { pd with prm := { q with refY := w } }
  | 0x2A => { pd with prm := { q with refZ := w } }
  | 0x36 => { pd with evCnt := w }
  | _ => pd

def rcRead (s : State) (off : Nat) : Nat :=
  if 0x100 ≤ off ∧ off < 0x900 then podRead (s.pod ((off - 0x100) / 0x40)) (off % 0x40)
  else match off with
    | 0x000 => s.rc.flt.toNat
    | 0x002 => s.rc.fltIe.toNat
    | 0x004 => s.rc.qovf.toNat
    | 0x006 => s.rc.unclass.toNat
    | 0x010 => podMap s (·.void) 0
    | 0x012 => podMap s (·.void) 1
    | 0x014 => podMap s (·.train) 0
    | 0x016 => podMap s (·.train) 1
    | 0x018 => podMap s (·.falling) 0
    | 0x01A => podMap s (·.falling) 1
    | 0x01C => podMap s (·.tipped) 0
    | 0x01E => podMap s (·.tipped) 1
    | _ => 0

def rcWrite (s : State) (off v : Nat) : State :=
  if 0x100 ≤ off ∧ off < 0x900 then
    s.setPod ((off - 0x100) / 0x40) (podWrite (s.pod ((off - 0x100) / 0x40)) (off % 0x40) v)
  else match off with
    | 0x000 => { s with rc := { s.rc with flt := w1c s.rc.flt v } }
    | 0x002 => { s with rc := { s.rc with fltIe := BitVec.ofNat 3 v } }
    | 0x004 => { s with rc := { s.rc with qovf := BitVec.ofNat 16 v } }
    | 0x006 => { s with rc := { s.rc with unclass := BitVec.ofNat 16 v } }
    | _ => s

/-- Registers of absent pods, and bitmap words that serve only absent pods. -/
def rcAbsent (s : State) (off : Nat) : Bool :=
  if 0x100 ≤ off ∧ off < 0x900 then nPods s ≤ (off - 0x100) / 0x40 && off % 0x40 ≤ 0x36
  else if 0x010 ≤ off ∧ off < 0x020 then off % 4 == 2 && nPods s ≤ 16
  else false

end Sys2Proof.Machine
end

