-- ==== Sys2Proof/Machine/Io.lean ====
section
/-! DEFINITION. Instrument ports, hold lines, ratiometric and loop outputs, and their registers (09). -/
namespace Sys2Proof.Machine

/-! ## Receiver (09 R390-R400) -/

def portLen (p : Port) : Nat := if p.len = 0 then 1 else min 512 p.len.toNat
/-- MODE as it acts: 3 acts as 1 (09 R421). -/
def portMode (p : Port) : Nat := if p.mode = 3 then 1 else p.mode.toNat

/-- Stillness class of a pod (07 R317). -/
def podClass (s : State) (p : Nat) : Nat := fld s.ce.classes.toNat (2 * p) 2

/-- The stillness tag of a frame that starts now: a class written in this very cycle is not seen (09 R398). -/
def frameTag (s : State) (pods : BitVec 32) : Nat :=
  let present := (List.range (nPods s)).filter (fun p => bitAt pods p)
  if present = [] then 1 else present.foldl (fun m p => max m (fld s.was.ce.classes.toNat (2 * p) 2)) 0

/-- The place of a frame of port `n` that is complete now: frames of one cycle stand in ascending port order (09 R401). -/
def frameOrd (s : State) (n : Nat) : Nat × State :=
  if s.io.frameAt = s.cyc + 1 then (s.io.frameOrd + n, s)
  else
    let o := s.takeOrd
    (o.1 + n, { o.2 with io := { o.2.io with frameAt := s.cyc + 1, frameOrd := o.1 } })

/-- The open frame ends (09 R393): it waits in its buffer in order of completion. -/
def endFrame (s : State) (n : Nat) (cause : Nat) (trunc : Bool) : State :=
  let p := s.port n
  match p.frame with
  | none => s
  | some f =>
    let o := frameOrd s n
    let p := { p with frame := none, done := p.done ++ [{ f with cause := BitVec.ofNat 2 cause, trunc := trunc, ord := o.1 }] }
    let p := if trunc then { p with discardTrunc := true, stat := p.stat ||| 4 } else p
    o.2.setPort n p

/-- The port receives: present, enabled, and not listening to its own transmission (09 R404). -/
def portHears (s : State) (n : Nat) : Bool :=
  let p := s.port n
  decide (n < nPorts s) && p.en && !(p.echoSupp && p.de)

/-- A confirmed start bit (09 R390, R397, R400). -/
def startBit (s : State) (n : Nat) : State :=
  let p := s.port n
  if !portHears s n || p.breakWait || p.frame.isSome || p.discardTrunc || p.discardOvr.isSome then s
  else if 2 ≤ p.done.length then
    s.setPort n { p with discardOvr := some 0, stat := p.stat ||| 8, ovrCnt := bump s 14 (0x118 + 0x40 * n) p.ovrCnt 1 }
  else s.setPort n { p with frame := some { e := s.e, tag := BitVec.ofNat 2 (frameTag s p.pods) } }

/-- The data bits as stored (09 R391). -/
def storedByte (p : Port) (b : Byte) : Byte := if p.bits7 then b &&& 0x7F else b

/-- The port checks parity (09 R421). -/
def hasParity (p : Port) : Bool := p.parity == 1 || p.parity == 2

def parityOf (b : Byte) : Bool := (List.range 8).foldl (fun a i => a != bitAt b i) false

/-- Every bit of the character is low: a break (09 R392). -/
def isBreak (p : Port) (b : Byte) (parityBad stopLow : Bool) : Bool :=
  let d := storedByte p b
  let pbit := if p.parity = 2 then !(parityOf d) != parityBad else parityOf d != parityBad
  stopLow && d == 0 && (!hasParity p || !pbit)

/-- A break (09 R392, R396). -/
def portBreak (s : State) (n : Nat) : State :=
  let p := s.port n
  if !portHears s n || p.breakWait then s
  else
    let s := s.setPort n { p with frame := p.frame.map (fun f => { f with lineErr := true }), stat := p.stat ||| 0x20,
                                  breakWait := true, discardTrunc := false, discardOvr := none }
    endFrame s n 3 false

/-- A received character (09 R391-R395). -/
def portChar (s : State) (n : Nat) (b : Byte) (parityBad stopLow : Bool) : State :=
  let p := s.port n
  if !portHears s n || p.breakWait then s
  else if isBreak p b parityBad stopLow then portBreak s n
  else
    let d := storedByte p b
    let m := portMode p
    let isEnd := m == 0 && d == p.endByte
    match p.frame with
    | some f =>
      let err := (parityBad && hasParity p) || stopLow
      let f := { f with bytes := f.bytes ++ [d], lineErr := f.lineErr || err }
      let s := s.setPort n { p with frame := some f, stat := if err then p.stat ||| 2 else p.stat }
      if isEnd then endFrame s n 0 false
      else if portLen p ≤ f.bytes.length then endFrame s n 2 (m != 2)
      else s
    | none =>
      if p.discardTrunc then
        s.setPort n { p with truncCnt := bump s 14 (0x116 + 0x40 * n) p.truncCnt 1, discardTrunc := !isEnd }
      else match p.discardOvr with
        | some k =>
          if isEnd then s.setPort n { p with discardOvr := none }
          else if portLen p ≤ k + 1 then s.setPort n { p with discardOvr := none, discardTrunc := m != 2 }
          else s.setPort n { p with discardOvr := some (k + 1) }
        | none => s

/-- The line has been idle for GAP bit times (09 R393-R395). -/
def portIdle (s : State) (n : Nat) : State :=
  let p := s.port n
  if !portHears s n || !(portMode p == 1 || p.gap != 0) then s
  else
    let s := s.setPort n { p with discardTrunc := false, discardOvr := none }
    match p.frame with
    | some f => if f.bytes = [] then s else endFrame s n 1 false
    | none => s

/-- The words of a FRAME record (04 R184, 09 R399). -/
def frameRecord (port : Nat) (f : Frame) : List Word :=
  let ws := packBytes f.bytes
  recHead 3 false (6 + ws.length) f.e
    (port * 256 + f.tag.toNat * 64 + f.cause.toNat * 16 + b2n f.lineErr * 8 + b2n f.trunc * 4) ++
    [BitVec.ofNat 16 f.bytes.length] ++ ws

/-- The waiting frame that completed first: its port. -/
def firstFrame (s : State) : Option (Nat × Frame) :=
  s.io.ports.foldl (fun (a : Option (Nat × Frame)) e =>
    match e.2.done with
    | [] => a
    | f :: _ => (match a with | some (_, g) => if f.ord < g.ord then some (e.1, f) else a | none => some (e.1, f))) none

/-- Take a port's first waiting frame from its buffer. -/
def dropFrame (s : State) (n : Nat) : State := s.setPort n { s.port n with done := (s.port n).done.drop 1 }

/-- The instrument frame writer writes the frame that completed first (09 R401). -/
def writeFrame (s : State) : State :=
  match firstFrame s with
  | none => s
  | some (n, f) =>
    let p := s.port n
    let st := s.strm p.stream.toNat
    let sn := streamFin p.stream.toNat
    if !(strmTakes st f.ord && st.kind == 3) then
      (dropFrame s n).setPort n { (dropFrame s n).port n with stat := p.stat ||| 0x10 }
    else if earlierWaits s sn f.ord then s
    else
      let s := dropFrame s n
      let t := writeUnit s 8 { stream := sn, e := f.e, words := frameRecord n f, ord := f.ord }
      if (t.strm sn).head = st.head then t
      else
        let q := t.port n
        t.setPort n { q with stat := q.stat ||| 1, frames := if t.fwWrote 14 (0x114 + 0x40 * n) then q.frames else q.frames + 1, lastTs := f.e % 2 ^ 48 }

/-! ## Transmitter (09 R402, R403) -/

def portTx (s : State) (n v : Nat) : State :=
  let p := s.port n
  if 32 ≤ p.txFifo.length then s.setPort n { p with stat := p.stat ||| 0x40 }
  else s.setPort n { p with txFifo := p.txFifo ++ [BitVec.ofNat 8 v], de := p.en && p.deEn }

/-- The character format of a byte on IPn_TXD, bit time by bit time: start bit, 7 or 8 data bits from the least significant on,
parity bit, stop bits (09 R389). -/
def txChar (p : Port) (b : Byte) : List Bool :=
  let n := if p.bits7 then 7 else 8
  let d := storedByte p b
  [false] ++ (List.range n).map (fun i => bitAt d i) ++ (if hasParity p then [parityOf d != (p.parity == 2)] else []) ++
    [true] ++ if p.stop2 then [true] else []

/-- A character has been sent. -/
def portSent (s : State) (n : Nat) : State :=
  let p := s.port n
  match p.txFifo with
  | [] => s
  | b :: f => if p.en then s.setPort n { p with txFifo := f, de := p.deEn && f != [], txd := txChar p b } else s

/-- A write of IP_n_CTRL (09 R396, R421). -/
def portCtrl (s : State) (n v : Nat) : State :=
  let en := v.testBit 15
  let s := if !en then endFrame s n 3 false else s
  let p := s.port n
  let p := if en then p else { p with discardTrunc := false, discardOvr := none, breakWait := false }
  s.setPort n { p with en := en, deEn := v.testBit 14, echoSupp := v.testBit 13, mode := BitVec.ofNat 2 (fld v 8 2),
                       stream := BitVec.ofNat 8 v, de := en && v.testBit 14 && p.txFifo != [] }

/-! ## Hold lines (09 R405-R407) -/

/-- The command of a line. -/
def lineSet (s : State) (n : Nat) (on : Bool) : State := { s with io := { s.io with ilCmd := setBitTo s.io.ilCmd n on } }

/-- Consecutive mismatches of a line at a swap instant: 32 is a mismatch that comes due, 33 one carried out. -/
def lineRun (bad : Bool) (r : Nat) : Nat := if bad then (if r < 31 then r + 1 else 32) else 0

/-- A mismatch that is due is carried out (09 R407). -/
def lineMismatch (s : State) (n : Nat) : State :=
  if tget 0 s.io.ilRun n = 32 then
    { s with io := { s.io with ilRun := tput 0 s.io.ilRun n 33, ilMis := setBitTo s.io.ilMis n true } }
  else s

/-- The hold line balls are sampled at a swap instant. -/
def linesSample (s : State) (high : BitVec 32) : State :=
  let s := (List.range (nLines s)).foldl lineMismatch s
  let inp := high &&& BitVec.ofNat 32 (2 ^ nLines s - 1)
  let run := (List.range (nLines s)).foldl (fun t n =>
    tput 0 t n (lineRun (bitAt s.io.ilCmd n && bitAt inp n) (tget 0 t n))) s.io.ilRun
  { s with io := { s.io with ilIn := inp, ilRun := run } }

/-! ## Ratiometric outputs (09 R408-R410) -/

def voCodeSet (s : State) (n v : Nat) : State :=
  { s with io := { s.io with voCode := tput 0x8000 s.io.voCode n (BitVec.ofNat 16 v) } }
/-- The outputs take their codes at an update instant. -/
def voUpdate (s : State) : State := { s with io := { s.io with voOut := s.io.voCode } }
/-- RATIO_REF is measured (09 R410). -/
def voMeasure (s : State) (mv : Nat) : State :=
  { s with io := { s.io with voRef := BitVec.ofNat 16 (min mv 65535), voRefLow := s.io.voRefLow || mv < 1000 } }

/-! ## Loop outputs (09 R411-R415) -/

def loopClamp (v : Nat) : Nat := if v < 3500 then 3500 else min v 22000

/-- The command is applied; one that differs restarts the count (09 R414). -/
def loopApply (l : LoopOut) : LoopOut :=
  let a := loopClamp l.cmd.toNat
  if a = l.applied then l else { l with applied := a, shorts := 0, allLow := true, skip := 1 }

/-- The eleventh consecutive short measurement is carried out (09 R413, R415). -/
def loopComply (l : LoopOut) : LoopOut :=
  match l.due with
  | some low =>
    let l := { l with due := none, compliance := true, opn := l.opn || low }
    if l.drop then { l with dropped := true, applied := 3500 } else l
  | none => l

/-- A command in µA: under DROP it is only stored while COMPLIANCE is set (09 R411, R415; 15 R622). A change of POLICY acts on
the commands that follow it (DESIGN CHOICE, log 62). -/
def loopCmd (l : LoopOut) (v : Nat) : LoopOut :=
  let l := { loopComply l with cmd := BitVec.ofNat 16 v }
  if l.compliance && l.drop then l else loopApply { l with dropped := false }

/-- A measurement at a tick (09 R412, R413). -/
def loopMeasure (l : LoopOut) (ua : Nat) : LoopOut :=
  let l := { l with meas := BitVec.ofNat 16 (min ua 65535) }
  if 0 < l.skip then { l with skip := l.skip - 1 }
  else if ua + 50 < l.applied then
    let low := l.allLow && ua < 500
    { l with shorts := min 11 (l.shorts + 1), allLow := low, due := if l.shorts = 10 then some low else l.due }
  else { l with shorts := 0, allLow := true }

/-- A write of LO_n_STAT; clearing COMPLIANCE applies the latest command and restarts the count (09 R415). -/
def loopStat (l : LoopOut) (v : Nat) : LoopOut :=
  let l := loopComply l
  let c := l.compliance && v.testBit 0
  let l := { l with compliance := w1cBit l.compliance v 0, pois := w1cBit l.pois v 1, opn := w1cBit l.opn v 2 }
  if c then { l with dropped := false, applied := loopClamp l.cmd.toNat, shorts := 0, allLow := true, skip := 1 } else l

/-- Loop measurements of a tick; compliance decisions that are due first. -/
def loopsTick (s : State) (ua : List Nat) : State :=
  (List.range (nLoops s)).foldl (fun s n => s.setLout n (loopMeasure (loopComply (s.lout n)) (nth 0 ua n))) s

/-! ## Outputs after a reset and in SAFE state (09 R418) -/

/-- A port after R418: off, FIFO and buffers empty. -/
def portOff (p : Port) : Port :=
  { p with en := false, frame := none, discardTrunc := false, discardOvr := none, breakWait := false, done := [],
           txFifo := [], de := false }

def loopOff (l : LoopOut) : LoopOut :=
  { l with cmd := 3500, applied := 3500, compliance := false, dropped := false, shorts := 0, allLow := true, due := none, skip := 0 }

def outputsOff (s : State) : State :=
  { s with io := { s.io with ilCmd := 0, voCode := [], voOut := [],
                             ports := s.io.ports.foldl (fun t e => tput {} t e.1 (portOff e.2)) [],
                             loops := s.io.loops.foldl (fun t e => tput {} t e.1 (loopOff e.2)) [] } }

/-! ## Registers (09 R421-R424) -/

def portStat (p : Port) : Nat :=
  p.stat.toNat + b2n p.frame.isSome * 256 + b2n (p.en && p.txFifo != []) * 512 + b2n (32 ≤ p.txFifo.length) * 1024

def portRead (p : Port) (off : Nat) : Nat :=
  match off with
  | 0x00 => b2n p.en * 32768 + b2n p.deEn * 16384 + b2n p.echoSupp * 8192 + p.mode.toNat * 256 + p.stream.toNat
  | 0x02 => b2n p.pre * 32768 + b2n p.bits7 * 16 + p.parity.toNat * 4 + b2n p.stop2 * 2
  | 0x04 => p.div.toNat
  | 0x06 => p.gap.toNat * 256 + p.endByte.toNat
  | 0x08 => p.len.toNat
  | 0x0A => mapWord p.pods 0
  | 0x0C => mapWord p.pods 1
  | 0x0E => portStat p
  | 0x10 => p.ie.toNat
  | 0x14 => p.frames.toNat
  | 0x16 => p.truncCnt.toNat
  | 0x18 => p.ovrCnt.toNat
  | 0x1A => p.lastTs
  | _ => 0

def portWrite (s : State) (n off v : Nat) : State :=
  let p := s.port n
  let pods := BitVec.ofNat 32 (2 ^ nPods s - 1)
  match off with
  | 0x00 => portCtrl s n v
  | 0x02 => s.setPort n { p with pre := v.testBit 15, bits7 := v.testBit 4, parity := BitVec.ofNat 2 (fld v 2 2), stop2 := v.testBit 1 }
  | 0x04 => s.setPort n { p with div := BitVec.ofNat 16 v }
  | 0x06 => s.setPort n { p with gap := BitVec.ofNat 8 (fld v 8 8), endByte := BitVec.ofNat 8 v }
  | 0x08 => s.setPort n { p with len := BitVec.ofNat 10 v }
  | 0x0A => s.setPort n { p with pods := setMapWord p.pods 0 v &&& pods }
  | 0x0C => s.setPort n { p with pods := setMapWord p.pods 1 v &&& pods }
  | 0x0E => s.setPort n { p with stat := w1c p.stat v }
  | 0x10 => s.setPort n { p with ie := BitVec.ofNat 7 v }
  | 0x12 => portTx s n v
  | 0x14 => s.setPort n { p with frames := BitVec.ofNat 16 v }
  | 0x16 => s.setPort n { p with truncCnt := BitVec.ofNat 16 v }
  | 0x18 => s.setPort n { p with ovrCnt := BitVec.ofNat 16 v }
  | _ => s

def ipRead (s : State) (off : Nat) : Nat :=
  if 0x100 ≤ off ∧ off < 0x500 then portRead (s.port ((off - 0x100) / 0x40)) (off % 0x40) else 0
def ipWrite (s : State) (off v : Nat) : State :=
  if 0x100 ≤ off ∧ off < 0x500 then portWrite s ((off - 0x100) / 0x40) (off % 0x40) v else s
def ipWide (off : Nat) : Option (Nat × Nat) :=
  if 0x100 ≤ off ∧ off < 0x500 ∧ 0x1A ≤ off % 0x40 ∧ off % 0x40 < 0x20 then some (off / 0x40 * 0x40 + 0x1A, 3) else none
def ipAbsent (s : State) (off : Nat) : Bool :=
  nPorts s == 0 || (decide (0x100 ≤ off) && decide (off < 0x500) &&
    ((decide (nPorts s ≤ (off - 0x100) / 0x40) && decide (off % 0x40 < 0x20)) || (off % 0x40 == 0x0C && decide (nPods s ≤ 16))))

def ilRead (s : State) (off : Nat) : Nat :=
  match off with
  | 0x000 => mapWord s.io.ilCmd 0
  | 0x002 => mapWord s.io.ilCmd 1
  | 0x004 => mapWord s.io.ilIn 0
  | 0x006 => mapWord s.io.ilIn 1
  | 0x008 => mapWord s.io.ilSafe 0
  | 0x00A => mapWord s.io.ilSafe 1
  | 0x00C => mapWord s.io.ilMis 0
  | 0x00E => mapWord s.io.ilMis 1
  | 0x010 => mapWord s.io.ilPois 0
  | 0x012 => mapWord s.io.ilPois 1
  | 0x014 => mapWord s.io.ilIe 0
  | 0x016 => mapWord s.io.ilIe 1
  | _ => 0

def ilWrite (s : State) (off v : Nat) : State :=
  let i := s.io
  let w := off / 2 % 2
  match off / 4 with
  | 0 => { s with io := { i with ilCmd := setMapWord i.ilCmd w v } }
  | 2 => { s with io := { i with ilSafe := setMapWord i.ilSafe w v } }
  | 3 => { s with io := { i with ilMis := clearMapWord i.ilMis w v } }
  | 4 => { s with io := { i with ilPois := clearMapWord i.ilPois w v } }
  | 5 => { s with io := { i with ilIe := setMapWord i.ilIe w v } }
  | _ => s

def ilAbsent (s : State) (off : Nat) : Bool := nLines s == 16 && off < 0x018 && off / 2 % 2 == 1

def voRead (s : State) (off : Nat) : Nat :=
  if 0x100 ≤ off ∧ off < 0x200 then
    (match off % 0x10 with
     | 0 => (tget 0x8000 s.io.voCode ((off - 0x100) / 0x10)).toNat
     | 2 => (tget 0x8000 s.io.voSafe ((off - 0x100) / 0x10)).toNat
     | _ => 0)
  else match off with
    | 0x000 => s.io.voRef.toNat
    | 0x002 => b2n s.io.voRefLow
    | 0x004 => b2n s.io.voRefIe
    | 0x006 => s.io.voPois.toNat
    | 0x008 => s.io.voPoisIe.toNat
    | _ => 0

def voWrite (s : State) (off v : Nat) : State :=
  let i := s.io
  if 0x100 ≤ off ∧ off < 0x200 then
    (match off % 0x10 with
     | 0 => voCodeSet s ((off - 0x100) / 0x10) v
     | 2 => { s with io := { i with voSafe := tput 0x8000 i.voSafe ((off - 0x100) / 0x10) (BitVec.ofNat 16 v) } }
     | _ => s)
  else match off with
    | 0x002 => { s with io := { i with voRefLow := w1cBit i.voRefLow v 0 } }
    | 0x004 => { s with io := { i with voRefIe := v.testBit 0 } }
    | 0x006 => { s with io := { i with voPois := w1c i.voPois v } }
    | 0x008 => { s with io := { i with voPoisIe := BitVec.ofNat 16 (v % 2 ^ nVouts s) } }
    | _ => s

def voAbsent (s : State) (off : Nat) : Bool :=
  nVouts s == 0 || (decide (0x100 ≤ off) && decide (off < 0x200) && decide (nVouts s ≤ (off - 0x100) / 0x10) && decide (off % 0x10 < 4))

def loopStatRead (l : LoopOut) : Nat :=
  b2n l.compliance + b2n l.pois * 2 + b2n l.opn * 4 + b2n l.dropped * 256 + l.shorts * 4096

def loRead (s : State) (off : Nat) : Nat :=
  if 0x100 ≤ off ∧ off < 0x180 then
    let l := s.lout ((off - 0x100) / 0x10)
    (match off % 0x10 with
     | 0 => l.cmd.toNat
     | 2 => l.meas.toNat
     | 4 => l.safe.toNat
     | 6 => b2n l.drop + l.ie.toNat * 2
     | 8 => loopStatRead l
     | _ => 0)
  else 0

def loWrite (s : State) (off v : Nat) : State :=
  if 0x100 ≤ off ∧ off < 0x180 then
    let n := (off - 0x100) / 0x10
    let l := s.lout n
    (match off % 0x10 with
     | 0 => s.setLout n (loopCmd l v)
     | 4 => s.setLout n { l with safe := BitVec.ofNat 16 v }
     | 6 => s.setLout n { loopComply l with drop := v.testBit 0, ie := BitVec.ofNat 3 (fld v 1 3) }
     | 8 => s.setLout n (loopStat l v)
     | _ => s)
  else s

def loAbsent (s : State) : Bool := nLoops s == 0

end Sys2Proof.Machine
end

