-- ==== Sys2Proof/Machine/Ce.lean ====
section
/-! DEFINITION. The charm engine: program store, activations, lanes, records, poison, outputs, write queue, CE_ registers (07). -/
namespace Sys2Proof.Machine

/-! ## Program store (07 R284-R286) -/

/-- Charm word `a` and whether it is poisoned. -/
def charmWord (s : State) (a : Nat) : Nat := getLE .iram s (0x20000 + 4 * a) 4
def charmPois (s : State) (a : Nat) : Bool := badLE .iram s (0x20000 + 4 * a) 4

def dirPois (s : State) (p : Nat) : Bool := charmPois s (2 * p) || charmPois s (2 * p + 1)
def dirEntry (s : State) (p : Nat) : Nat := fld (charmWord s (2 * p)) 0 14
def dirPentry (s : State) (p : Nat) : Nat := fld (charmWord s (2 * p)) 16 14
def dirMax (s : State) (p : Nat) : Nat := fld (charmWord s (2 * p + 1)) 0 6 + 1
def dirValid (s : State) (p : Nat) : Bool := (charmWord s (2 * p + 1)).testBit 15

/-! ## Sticky bits (07 R334, R335) -/

def ceFlag (s : State) (b : Nat) : State := { s with ce := { s.ce with flt := setBitTo s.ce.flt b true } }

/-- An instance's status bit; ILLEGAL, RANGE and IFETCH set the engine's bit too. -/
def instFlag (s : State) (i b : Nat) : State :=
  let c := s.chm i
  let s := s.setChm i { c with stat := setBitTo c.stat b true }
  match b with
  | 3 => ceFlag s 3
  | 4 => ceFlag s 4
  | 7 => ceFlag s 11
  | _ => s

/-! ## Activations (07 R289-R297, R327) -/

/-- Subscription `k` of an instance: enabled, and its source. -/
def subOf (c : Inst) (k : Nat) : Bool × Nat :=
  let w := (if k < 2 then c.sub01 else c.sub23).toNat
  if k % 2 = 0 then (w.testBit 7, fld w 0 5) else (w.testBit 15, fld w 8 5)

/-- The lane's run, its background queue. -/
def laneRun (s : State) (l : Nat) : Option Run := if l = 0 then s.ce.run0 else s.ce.run1
def setLaneRun (s : State) (l : Nat) (r : Option Run) : State :=
  if l = 0 then { s with ce := { s.ce with run0 := r } } else { s with ce := { s.ce with run1 := r } }
def laneBg (s : State) (l : Nat) : List Act := if l = 0 then s.ce.bg0 else s.ce.bg1
def setLaneBg (s : State) (l : Nat) (q : List Act) : State :=
  if l = 0 then { s with ce := { s.ce with bg0 := q } } else { s with ce := { s.ce with bg1 := q } }

/-- An instance is LATE (07 R327). -/
def markLate (s : State) (i : Nat) : State :=
  let s := instFlag s i 0
  let c := s.chm i
  let s := s.setChm i { c with lateCnt := bump s 11 0x128 c.lateCnt 1 i }
  ceFlag { s with ce := { s.ce with lateCnt := bump s 11 0x006 s.ce.lateCnt 1 } } 0

/-- A record of stream `n` has been fetched: a periodic activation that runs on the record before it is LATE, whether or not
another arises (07 R327, R328, R331). -/
def lateRuns (s : State) (n : Fin 256) : State :=
  [0, 1].foldl (fun s l =>
    match laneRun s l with
    | some r =>
      if r.act.strm == some n && !r.late && !s.ce.periodic.any (fun b => b.inst == r.act.inst && b.cause == r.act.cause) then
        setLaneRun (markLate s r.act.inst) l (some { r with late := true })
      else s
    | none => s) s

/-- A periodic activation arises: one still pending is LATE and is moved to the newest record (07 R327). -/
def raisePeriodic (s : State) (a : Act) : State :=
  if s.ce.periodic.any (fun b => b.inst == a.inst && b.cause == a.cause) then
    let s := markLate s a.inst
    { s with ce := { s.ce with periodic := s.ce.periodic.map (fun b =>
      if b.inst == a.inst && b.cause == a.cause then { a with skipped := b.skipped + 1 } else b) } }
  else { s with ce := { s.ce with periodic := s.ce.periodic ++ [a] } }

/-- A background activation arises on its lane (07 R297). -/
def raiseBackground (s : State) (a : Act) : State :=
  let l := a.inst.val % 2
  let q := laneBg s l
  if q.length < 128 then setLaneBg s l (q ++ [a])
  else ceFlag { s with ce := { s.ce with bgqOvf := bump s 11 0x00C s.ce.bgqOvf 1 } } 5

/-- An activation arises for an enabled instance (07 R289, R328, R331). -/
def raiseAct (s : State) (a : Act) : State :=
  let c := s.chm a.inst
  if !s.ce.run || !c.en || c.closing then s
  else if !dirPois s c.prog.toNat && !dirValid s c.prog.toNat then instFlag s a.inst 3
  else if a.deadline.isSome then raisePeriodic s a else raiseBackground s a

/-- An instance number as `Fin 2048`. -/
def instFin (n : Nat) : Fin 2048 := ⟨n % 2048, Nat.mod_lt n (by decide)⟩
def srcFin (n : Nat) : Fin 32 := ⟨n % 32, Nat.mod_lt n (by decide)⟩

/-- The sources that `is` names occur: one activation per enabled subscription, in ascending instance and cause order. -/
def occur (s : State) (is : Nat → Bool) (mk : Fin 2048 → Nat → Nat → Act) : State :=
  s.ce.insts.foldl (fun s e =>
    [0, 1, 2, 3].foldl (fun s k =>
      let sub := subOf e.2 k
      if sub.1 && is sub.2 then raiseAct s (mk (instFin e.1) k sub.2) else s) s) s

/-- Source `j` as its register holds it: type and number (07 R290). -/
def srcType (s : State) (j : Nat) : Nat := fld (tget 0 s.ce.srcs j).toNat 14 2
def srcNum (s : State) (j : Nat) : Nat :=
  let v := (tget 0 s.ce.srcs j).toNat
  if srcType s j = 1 then v % 256 else v % 32

/-- A pair of the pod has changed state at a swap instant (07 R290). -/
def pairStateOccur (s : State) (pod e : Nat) : State :=
  occur s (fun j => srcType s j == 3 && srcNum s j == pod)
    (fun i k j => { inst := i, cause := k, e := e, src := some (srcFin j) })

/-! ## Fetching records (07 R296, R299-R302) -/

/-- Record period of a stream in FE_CLK periods. -/
def recPeriod (st : Stream) : Nat := if st.kind = 1 then modePeriod st.mode.toNat else 128 * (st.km1.toNat + 1)

/-- The words of a record as the fetch unit gets them, with their marks; refused words are poisoned (05 R236). -/
def fetchWords (s : State) (st : Stream) (pos n : Nat) : List MWord × State :=
  if portBlocked s 1 then
    ((List.range n).map (fun i => ⟨Config.refusedWord (s.free + i), true⟩), { s with free := s.free + n })
  else
    (List.range n).foldl (fun (a : List MWord × State) i =>
      let r := readStore a.2 (posWord a.2 st (pos + i))
      (a.1 ++ [⟨r.1.1, r.1.2⟩], r.2)) ([], s)

/-- The oldest record that waits to be fetched is read into the buffers of its sources, and activates subscribers. -/
def fetchRecord (s : State) : State :=
  match s.ss.fetches with
  | [] => s
  | f :: rest =>
    let s := { s with ss := { s.ss with fetches := rest } }
    let is := fun j => srcType s j == 1 && srcNum s j == f.stream.val
    let st := s.strm f.stream
    if !st.armed || !(List.range 32).any is then s
    else
      let r := fetchWords s st f.pos (min f.len 320)
      let s := (List.range 32).foldl (fun s j =>
        if is j then { s with ce := { s.ce with bufs := tput none s.ce.bufs j (some ⟨f.e, r.1⟩) } } else s) r.2
      if st.kind = 3 then occur s is (fun i k j => { inst := i, cause := k, e := f.e, src := some (srcFin j) })
      else
        occur (lateRuns s f.stream) is (fun i k j =>
          { inst := i, cause := k, e := f.e, deadline := some (f.e + recPeriod st), src := some (srcFin j), strm := some f.stream })

/-! ## Lanes (07 R294-R298) -/

/-- The margin of a periodic activation that ends now, in units of 64 BUS_CLK cycles (07 R334). -/
def noteSlack (s : State) (l : Nat) (a : Act) : State :=
  match a.deadline with
  | none => s
  | some d =>
    let m := busBetween s (s.now + (32 * d - s.now % 2 ^ 57)) / 64000
    if s.fwWrote 11 (0x016 + 2 * l) then s
    else if l = 0 then { s with ce := { s.ce with slack0 := BitVec.ofNat 16 (min m s.ce.slack0.toNat) } }
    else { s with ce := { s.ce with slack1 := BitVec.ofNat 16 (min m s.ce.slack1.toNat) } }

/-- The activation on a lane ends; a cleared EN takes effect (07 R331). -/
def endRun (s : State) (l : Nat) : State :=
  match laneRun s l with
  | none => s
  | some r =>
    let s := noteSlack (setLaneRun s l none) l r.act
    let c := s.chm r.act.inst
    if c.closing then s.setChm r.act.inst { c with en := false, closing := false } else s

/-- MAXSTEPS steps have been executed without HALT (07 R298). -/
def stepLimit (s : State) (l : Nat) : State :=
  match laneRun s l with
  | some r =>
    if r.maxSteps ≤ r.steps then
      let s := instFlag s r.act.inst 2
      endRun (ceFlag { s with ce := { s.ce with overrunCnt := bump s 11 0x00A s.ce.overrunCnt 1 } } 2) l
    else s
  | none => s

/-- An earlier deadline, then the lower instance, then the lower cause. -/
def actBefore (a b : Act) : Bool :=
  let da := a.deadline.getD 0
  let db := b.deadline.getD 0
  da < db || (da == db && (a.inst.val < b.inst.val || (a.inst == b.inst && a.cause < b.cause)))

/-- The next activation of a lane and the state without it (07 R295). -/
def takeAct (s : State) (l : Nat) : Option (Act × State) :=
  let mine := s.ce.periodic.filter (fun a => a.inst.val % 2 == l)
  match mine with
  | a :: rest =>
    let b := rest.foldl (fun m x => if actBefore x m then x else m) a
    some (b, { s with ce := { s.ce with periodic := s.ce.periodic.filter (fun x => !(x.inst == b.inst && x.cause == b.cause)) } })
  | [] =>
    match laneBg s l with
    | a :: rest => some (a, setLaneBg s l rest)
    | [] => none

/-- A free lane starts its next activation (07 R295, R298, R302, R309). -/
def startAct (s : State) (l : Nat) : State :=
  let s := stepLimit s l
  if (laneRun s l).isSome || !s.ce.run then s
  else match takeAct s l with
    | none => s
    | some (a, s) =>
      let p := (s.chm a.inst).prog.toNat
      if dirPois s p then
        let s := noteSlack (instFlag s a.inst 7) l a
        let s := if charmPois s (2 * p) then askRefetch s (0x20000 + 8 * p) else s
        if charmPois s (2 * p + 1) then askRefetch s (0x20000 + 8 * p + 4) else s
      else if !dirValid s p then instFlag s a.inst 3
      else
        let rec_ := match a.src with
          | some j => if srcType s j = 1 then tget none s.ce.bufs j.val else none
          | none => none
        let a := match rec_ with | some b => { a with e := b.e } | none => a
        let buf := match a.event with | some ws => some ws | none => rec_.map (·.words)
        setLaneRun s l (some { act := a, pc := dirEntry s p, pentry := dirPentry s p, maxSteps := dirMax s p, buf := buf })

/-! ## Steps (07 R298, R304-R313) -/

/-- The fields of an instruction word (07 R310). -/
def opOf (w : Nat) : Nat := fld w 26 6
def fD (w : Nat) : Nat := fld w 23 3
def fA (w : Nat) : Nat := fld w 20 3
def fB (w : Nat) : Nat := fld w 17 3
def fI (w : Nat) : Nat := fld w 0 16
def fT (w : Nat) : Nat := fld w 0 14

/-- The OPs of the instruction table (07 R313). -/
def knownOp (o : Nat) : Bool := o ≤ 0x18 || (0x20 ≤ o && o ≤ 0x2C) || (0x30 ≤ o && o ≤ 0x33) || (0x38 ≤ o && o ≤ 0x3E)

/-- What the lane's next step meets. -/
inductive Meet where
  | nothing
  | range
  | ifetch
  | word (w : Nat)
  deriving DecidableEq, Repr

/-- The word that the lane executes next (07 R286, R309); nothing once MAXSTEPS steps have been executed. -/
def meetWord (s : State) (r : Run) : Meet :=
  if r.maxSteps ≤ r.steps then .nothing
  else if r.pc < 128 ∨ 16383 < r.pc then .range
  else if charmPois s r.pc then .ifetch
  else .word (charmWord s r.pc)

/-- One step on lane `l`: `run` is the effect of a word that `is` names. A word of another kind has no effect here;
a pc out of range and a poisoned word end the activation, whatever step was asked for. -/
def charmStep (s : State) (l : Nat) (is : Nat → Bool) (run : State → Run → Nat → State) : State :=
  match laneRun s l with
  | none => s
  | some r =>
    match meetWord s r with
    | .nothing => s
    | .range => endRun (instFlag s r.act.inst 4) l
    | .ifetch => endRun (askRefetch (instFlag s r.act.inst 7) (0x20000 + 4 * r.pc)) l
    | .word w => if is (opOf w) then run s r w else s

/-- The step is done: the next pc, one step more. -/
def goTo (s : State) (l : Nat) (r : Run) (pc : Nat) : State := setLaneRun s l (some { r with pc := pc, steps := r.steps + 1 })

def vreg (s : State) (r : Run) (i : Nat) : Word := tget 0 (s.chm r.act.inst).v i
def preg (s : State) (r : Run) (i : Nat) : Bool := bitAt (s.chm r.act.inst).p i
/-- Write a value register and its P bit. -/
def setV (s : State) (r : Run) (i : Nat) (v : Word) (p : Bool) : State :=
  let c := s.chm r.act.inst
  s.setChm r.act.inst { c with v := tput 0 c.v i v, p := setBitTo c.p i p }

/-- Write D and go on. -/
def putD (s : State) (l : Nat) (r : Run) (w : Nat) (v : Word) (p : Bool) : State :=
  goTo (setV s r (fD w) v p) l r (r.pc + 1)

/-- The poison branch, or the end at a second consumption (07 R307, R308). -/
def poisonTaken (s : State) (l : Nat) (r : Run) : State :=
  let s := instFlag s r.act.inst 1
  let s := ceFlag { s with ce := { s.ce with poisonCnt := bump s 11 0x008 s.ce.poisonCnt 1 } } 1
  if r.hit then endRun (instFlag s r.act.inst 6) l
  else setLaneRun s l (some { r with pc := r.pentry, steps := r.steps + 1, hit := true })

/-- A word of the record buffer with its mark; none beyond the words fetched or without a record (07 R304). -/
def recWord (r : Run) (i : Nat) : Option MWord := match r.buf with | some ws => ws[i]? | none => none

/-- D takes a record word (07 R304, R305). -/
def putRec (s : State) (l : Nat) (r : Run) (w : Nat) (i : Option Nat) : State :=
  match (match i with | some i => recWord r i | none => none) with
  | some m => putD s l r w m.w m.poison
  | none => putD (instFlag s r.act.inst 4) l r w 0 false

/-- Slot index A + IMM[10:0], none if negative (07 R313, R304). -/
def slotIndex (a : Word) (w : Nat) : Option Nat :=
  let i := a.toInt + (fld w 0 11 : Int)
  if i < 0 then none else some i.toNat

/-- Slots of the record in the buffer: N, or K × N in a COARSE record (04 R184). -/
def slotCount (r : Run) : Nat :=
  let h := match recWord r 0 with | some m => m.w.toNat | none => 0
  let w1 := match recWord r 1 with | some m => m.w.toNat | none => 0
  if fld h 12 4 = 2 then (fld w1 8 4 + 1) * fld w1 0 8 else fld w1 0 8

/-- D takes the flag byte of a slot (07 R305, R313); with FLAGS 0 it is 0, under the header word's mark. -/
def putFlag (s : State) (l : Nat) (r : Run) (w : Nat) (slot : Option Nat) : State :=
  match recWord r 0, slot with
  | some h, some i =>
    if !bitAt h.w 11 then putD s l r w 0 h.poison
    else match recWord r (5 + slotCount r + i / 2) with
      | some m => putD s l r w (BitVec.ofNat 16 (fld m.w.toNat (8 * (i % 2)) 8)) m.poison
      | none => putD (instFlag s r.act.inst 4) l r w 0 false
  | _, _ => putD (instFlag s r.act.inst 4) l r w 0 false

/-- The engine quantity of LDQ (07 R314). -/
def quantity (s : State) (r : Run) (q : Nat) : Word :=
  let c := s.chm r.act.inst
  match q with
  | 0 => BitVec.ofNat 16 r.act.cause
  | 1 => c.state.setWidth 16
  | 2 => c.t0
  | 3 => c.t1
  | 4 => BitVec.ofNat 16 r.act.inst.val
  | 5 => BitVec.ofNat 16 r.act.e
  | 6 => BitVec.ofNat 16 (r.act.e / 65536)
  | 7 => BitVec.ofNat 16 (min 65535 r.act.skipped)
  | 8 => c.p.setWidth 16
  | 9 => BitVec.ofNat 16 (match r.buf with | some b => b.length | none => 0)
  | _ => 0

/-- The code of a pair state (07 R315). -/
def pairCode : PairState → Nat
  | .off => 0
  | .ok => 1
  | .opn => 2
  | .short => 3

/-- The pair-state word of a pod. -/
def pairWord (s : State) (pod : Nat) : Word :=
  BitVec.ofNat 16 ((List.range 6).foldl (fun a i => a + pairCode (s.pfe (6 * pod + i)).st * 4 ^ i) 0)

/-- D takes a pod's value (07 R316). -/
def putPod (s : State) (l : Nat) (r : Run) (w : Nat) (f : Nat → Word) : State :=
  let a := (vreg s r (fA w)).toNat
  if preg s r (fA w) then poisonTaken s l r
  else if 32 ≤ a then putD (instFlag s r.act.inst 4) l r w 0 false
  else if nPods s ≤ a then putD (instFlag s r.act.inst 5) l r w 0 false
  else putD s l r w (f a) false

/-- A jump if `c` holds. -/
def jumpIf (s : State) (l : Nat) (r : Run) (w : Nat) (c : Bool) : State := goTo s l r (if c then fT w else r.pc + 1)

/-- A branch that consumes A, and B if `two` is true (07 R306, R313). -/
def branch (s : State) (l : Nat) (r : Run) (w : Nat) (two : Bool) (c : Bool) : State :=
  if preg s r (fA w) || (two && preg s r (fB w)) then poisonTaken s l r else jumpIf s l r w c

/-- Lane `l` writes what the register at `off` of block `blk` holds of pod or channel `n`: in one cycle lane 1's write stands over
lane 0's, and a keeper's over both (07 R318). -/
def laneWrite (s : State) (l blk off n : Nat) (go : State → State) : State :=
  if s.fwWrote blk off || (l == 0 && s.fwWrote blk off (n + 1)) then s
  else if l = 0 then go s else (go s).fwMark blk off (n + 1)

/-- The class of a pod, effective in the next cycle (07 R317, R318). -/
def setClass (s : State) (l pod c : Nat) : State :=
  laneWrite s l 11 (0x020 + pod / 8 * 2) pod (fun s =>
    { s with ce := { s.ce with classes := BitVec.ofNat 64 (s.ce.classes.toNat - podClass s pod * 4 ^ pod + c % 4 * 4 ^ pod) } })

/-- A command to an absent or out-of-range output (07 R319). -/
def absentCmd (s : State) (r : Run) : State := ceFlag (instFlag s r.act.inst 5) 7

/-- An output command: channel A of `n` present ones, whose command the register at `off` of block `blk` holds; `cmd` for a
clean B, `safe` for a poisoned one (07 R307, R318, R319). -/
def outputOp (s : State) (l : Nat) (r : Run) (w n blk : Nat) (off : Nat → Nat) (cmd : State → Nat → Word → State)
    (safe : State → Nat → State) (pois : State → Nat → State) : State :=
  let a := (vreg s r (fA w)).toNat
  if preg s r (fA w) then poisonTaken s l r
  else if preg s r (fB w) then
    poisonTaken (if n ≤ a then absentCmd s r else pois (laneWrite s l blk (off a) a (fun s => safe s a)) a) l r
  else goTo (if n ≤ a then absentCmd s r else laneWrite s l blk (off a) a (fun s => cmd s a (vreg s r (fB w)))) l r (r.pc + 1)

/-- The safe values as commands, and the POIS bits (09 R416). -/
def lineSafe (s : State) (n : Nat) : State := lineSet s n (bitAt s.io.ilSafe n)
def linePois (s : State) (n : Nat) : State := { s with io := { s.io with ilPois := setBitTo s.io.ilPois n true } }
def voSafe (s : State) (n : Nat) : State := voCodeSet s n (tget 0x8000 s.io.voSafe n).toNat
def voPois (s : State) (n : Nat) : State := { s with io := { s.io with voPois := setBitTo s.io.voPois n true } }
def loopSafe (s : State) (n : Nat) : State := s.setLout n (loopCmd (s.lout n) (s.lout n).safe.toNat)
def loopPois (s : State) (n : Nat) : State := s.setLout n { s.lout n with pois := true }

/-! ## The write queue (07 R320-R323) -/

def wqDrop (s : State) : State := ceFlag { s with ce := { s.ce with wqDrop := bump s 11 0x00E s.ce.wqDrop 1 } } 6

/-- A record enters the write queue, or is discarded when it is full. -/
def wqPut (s : State) (r : Rec) : State :=
  if 64 ≤ s.ce.wq.length then wqDrop s
  else
    let o := s.takeOrd
    { o.2 with ce := { o.2.ce with wq := o.2.ce.wq ++ [{ r with ord := o.1 }] } }

/-- An EVENT record (04 R184). -/
def eventRecord (kind code e origin : Nat) (a b : Word) : List Word :=
  recHead 4 false 8 e (kind * 256 + code) ++ [BitVec.ofNat 16 origin, a, b]

/-- The first record of the write queue is written through port 1, or discarded (07 R320). -/
def wqWriteNow (s : State) : State :=
  match s.ce.wq with
  | [] => s
  | r :: rest =>
    let st := s.strm r.stream
    let kind := if fld (nth 0 r.words 0).toNat 12 4 = 6 then 3 else 4
    if !(strmTakes st r.ord && st.kind.toNat == kind) then wqDrop { s with ce := { s.ce with wq := rest } }
    else if earlierWaits s r.stream r.ord then s
    else writeUnit { s with ce := { s.ce with wq := rest } } 1 r

/-- The engine fetches record words ahead of its own record writes (07 R300). -/
def wqWrite (s : State) : State := if s.ss.fetches = [] then wqWriteNow s else s

/-! ## Recognizer events (06 R277, R278; 07 R303) -/

/-- The event at the head of the recognizer queue goes to its subscribers and to its stream. -/
def drainEvent (s : State) : State :=
  match s.rc.queue with
  | [] => s
  | v :: rest =>
    let s := { s with rc := { s.rc with queue := rest } }
    let ws := eventRecord 1 v.code.toNat v.e v.pod.val v.a v.b
    let q := (s.pod v.pod).inForce
    let sn := streamFin q.stream.toNat
    let st := s.strm sn
    let s := occur s (fun j => srcType s j == 2 && srcNum s j == v.pod.val)
      (fun i k j => { inst := i, cause := k, e := v.e, src := some (srcFin j), event := some (ws.map (fun w => ⟨w, false⟩)) })
    if !q.ev then s
    else if st.armed && st.kind == 4 then wqPut s { stream := sn, e := v.e, words := ws }
    else { s with rc := { s.rc with flt := s.rc.flt ||| 4 } }

/-! ## Timers (07 R292) -/

/-- A tick: every nonzero timer of an enabled instance decreases by 1; those that reach 0 are noted. -/
def timersTick (s : State) (e : Nat) : State :=
  if !s.ce.run then s
  else s.ce.insts.foldl (fun s x =>
    if !x.2.en then s
    else
      let c := s.chm x.1
      let s := s.setChm x.1 { c with t0 := if c.t0 = 0 then 0 else c.t0 - 1, t1 := if c.t1 = 0 then 0 else c.t1 - 1 }
      let n0 := if c.t0 = 1 then [(instFin x.1, false, e)] else []
      let n1 := if c.t1 = 1 then [(instFin x.1, true, e)] else []
      { s with ce := { s.ce with expired := s.ce.expired ++ n0 ++ n1 } }) s

/-- The first timer that has reached 0 raises its activation. -/
def timerExpire (s : State) : State :=
  match s.ce.expired with
  | [] => s
  | (i, w, e) :: rest =>
    raiseAct { s with ce := { s.ce with expired := rest } } { inst := i, cause := if w then 5 else 4, e := e }

def timersFlush (s : State) : State := (List.range s.ce.expired.length).foldl (fun s _ => timerExpire s) s

/-! ## Control (07 R328-R332) -/

/-- A write of CE_CTRL. -/
def ceCtrl (s : State) (v : Nat) : State :=
  let s := { s with ce := { s.ce with run := v.testBit 0 } }
  if v.testBit 0 then s
  else { s with ce := { s.ce with periodic := [], bg0 := [], bg1 := [], expired := [] }, ss := { s.ss with fetches := [] } }

/-- The pending activations that `p` names are discarded. -/
def dropActs (s : State) (p : Act → Bool) : State :=
  { s with ce := { s.ce with periodic := s.ce.periodic.filter (fun a => !p a), bg0 := s.ce.bg0.filter (fun a => !p a),
                             bg1 := s.ce.bg1.filter (fun a => !p a) } }

def instRuns (s : State) (i : Nat) : Bool :=
  [s.ce.run0, s.ce.run1].any (fun r => match r with | some r => r.act.inst.val == i | none => false)
def instPending (s : State) (i : Nat) : Bool := (s.ce.periodic ++ s.ce.bg0 ++ s.ce.bg1).any (fun a => a.inst.val == i)

/-- A write of CE_I_CTRL to instance `i` (07 R330, R331). -/
def instCtrl (s : State) (i v : Nat) : State :=
  let c := s.chm i
  if c.en then
    if v.testBit 15 then s.setChm i { c with closing := false }
    else
      let s := dropActs s (fun a => a.inst.val == i)
      let s := { s with ce := { s.ce with expired := s.ce.expired.filter (fun x => x.1.val != i) } }
      if instRuns s i then s.setChm i { c with closing := true } else s.setChm i { c with en := false }
  else s.setChm i { c with en := v.testBit 15, prog := BitVec.ofNat 6 (fld v 8 6), state := BitVec.ofNat 8 v }

/-- A write of CE_SRCn (07 R332). -/
def srcWrite (s : State) (n v : Nat) : State :=
  let s := dropActs s (fun a => match a.src with | some j => j.val == n | none => false)
  { s with ce := { s.ce with srcs := tput 0 s.ce.srcs n (BitVec.ofNat 16 (v &&& if 2 ≤ fld v 14 2 then 0xC01F else 0xC0FF)), bufs := tput none s.ce.bufs n none } }

/-- Writes that need the charm store lease: the loader's need none (07 R329). -/
def ceLeased (s : State) (k : Nat) (loader : Bool) (f : State → State) : State :=
  if loader || leaseMine s.ce.lease k then f s else ceFlag s 8

/-- A write of another configuration register of instance `i` (07 R330). -/
def instConf (s : State) (i : Nat) (f : Inst → Inst) : State :=
  let c := s.chm i
  if c.en then ceFlag s 9 else s.setChm i (f c)

/-! ## Registers (07 R334, R335) -/

def instRead (s : State) (i off : Nat) : Nat :=
  let c := s.chm i
  if 0x108 ≤ off ∧ off < 0x118 then (tget 0 c.v ((off - 0x108) / 2)).toNat
  else if 0x11E ≤ off ∧ off < 0x126 then (tget 0 c.c ((off - 0x11E) / 2)).toNat
  else match off with
    | 0x102 => b2n c.en * 32768 + c.prog.toNat * 256 + c.state.toNat
    | 0x104 => c.sub01.toNat
    | 0x106 => c.sub23.toNat
    | 0x118 => c.p.toNat
    | 0x11A => c.t0.toNat
    | 0x11C => c.t1.toNat
    | 0x126 => c.stat.toNat + b2n (instPending s i) * 16384 + b2n (instRuns s i) * 32768
    | 0x128 => c.lateCnt.toNat
    | _ => 0

/-- The other configuration registers of an instance. -/
def instSet (c : Inst) (off v : Nat) : Inst :=
  if 0x108 ≤ off ∧ off < 0x118 then { c with v := tput 0 c.v ((off - 0x108) / 2) (BitVec.ofNat 16 v) }
  else if 0x11E ≤ off ∧ off < 0x126 then { c with c := tput 0 c.c ((off - 0x11E) / 2) (BitVec.ofNat 16 v) }
  else match off with
    | 0x104 => { c with sub01 := BitVec.ofNat 16 (v &&& 0x9F9F) }
    | 0x106 => { c with sub23 := BitVec.ofNat 16 (v &&& 0x9F9F) }
    | 0x118 => { c with p := BitVec.ofNat 8 v }
    | 0x11A => { c with t0 := BitVec.ofNat 16 v }
    | 0x11C => { c with t1 := BitVec.ofNat 16 v }
    | _ => c

/-- A bitmap word over instances: bit `b` of their status. -/
def instMap (s : State) (b w : Nat) : Nat :=
  (List.range 16).foldl (fun a i => a + b2n (bitAt (s.chm (16 * w + i)).stat b) * 2 ^ i) 0
def instMapClear (s : State) (b w v : Nat) : State :=
  (List.range 16).foldl (fun s i =>
    if v.testBit i then s.setChm (16 * w + i) { s.chm (16 * w + i) with stat := setBitTo (s.chm (16 * w + i)).stat b false }
    else s) s

def ceRead (s : State) (k off : Nat) : Nat :=
  let c := s.ce
  if 0x102 ≤ off ∧ off < 0x12A then instRead s (s.keeper k).ceIsel.toNat off
  else if 0x040 ≤ off ∧ off < 0x050 then (tget 0 c.sigInst ((off - 0x040) / 2)).toNat
  else if 0x080 ≤ off ∧ off < 0x0C0 then (tget 0 c.srcs ((off - 0x080) / 2)).toNat
  else if 0x200 ≤ off ∧ off < 0x300 then instMap s 0 ((off - 0x200) / 2)
  else if 0x300 ≤ off ∧ off < 0x400 then instMap s 1 ((off - 0x300) / 2)
  else match off with
    | 0x000 => b2n c.run
    | 0x002 => c.flt.toNat + c.lastOwner.val * 4096
    | 0x004 => c.fltIe.toNat
    | 0x006 => c.lateCnt.toNat
    | 0x008 => c.poisonCnt.toNat
    | 0x00A => c.overrunCnt.toNat
    | 0x00C => c.bgqOvf.toNat
    | 0x00E => c.wqDrop.toNat
    | 0x010 => leaseRead c.lease k
    | 0x012 => c.lease.tmo.toNat
    | 0x014 => c.evStream.toNat
    | 0x016 => c.slack0.toNat
    | 0x018 => c.slack1.toNat
    | 0x020 => mapWord c.classes 0
    | 0x022 => mapWord c.classes 1
    | 0x024 => mapWord c.classes 2
    | 0x026 => mapWord c.classes 3
    | 0x030 => c.sigStk.toNat
    | 0x032 => c.sigIe.toNat
    | 0x100 => (s.keeper k).ceIsel.toNat
    | _ => 0

def ceWrite (s : State) (k : Nat) (loader : Bool) (off v : Nat) : State :=
  let c := s.ce
  let i := (s.keeper k).ceIsel.toNat
  if off = 0x102 then ceLeased s k loader (fun s => instCtrl s i v)
  else if 0x104 ≤ off ∧ off < 0x126 then ceLeased s k loader (fun s => instConf s i (fun c => instSet c off v))
  else if 0x080 ≤ off ∧ off < 0x0C0 then ceLeased s k loader (fun s => srcWrite s ((off - 0x080) / 2) v)
  else if 0x200 ≤ off ∧ off < 0x300 then instMapClear s 0 ((off - 0x200) / 2) v
  else if 0x300 ≤ off ∧ off < 0x400 then instMapClear s 1 ((off - 0x300) / 2) v
  else match off with
    | 0x000 => ceCtrl s v
    | 0x002 => { s with ce := { c with flt := w1c c.flt v } }
    | 0x004 => { s with ce := { c with fltIe := BitVec.ofNat 12 v } }
    | 0x006 => { s with ce := { c with lateCnt := BitVec.ofNat 16 v } }
    | 0x008 => { s with ce := { c with poisonCnt := BitVec.ofNat 16 v } }
    | 0x00A => { s with ce := { c with overrunCnt := BitVec.ofNat 16 v } }
    | 0x00C => { s with ce := { c with bgqOvf := BitVec.ofNat 16 v } }
    | 0x00E => { s with ce := { c with wqDrop := BitVec.ofNat 16 v } }
    | 0x010 => { s with ce := { c with lease := leaseOp c.lease (keeperFin k) s.cyc v } }
    | 0x012 => { s with ce := { c with lease := { c.lease with tmo := BitVec.ofNat 16 v } } }
    | 0x014 => ceLeased s k loader (fun s => { s with ce := { s.ce with evStream := BitVec.ofNat 9 v } })
    | 0x016 => { s with ce := { c with slack0 := 0xFFFF } }
    | 0x018 => { s with ce := { c with slack1 := 0xFFFF } }
    | 0x020 => { s with ce := { c with classes := setMapWord c.classes 0 v } }
    | 0x022 => { s with ce := { c with classes := setMapWord c.classes 1 v } }
    | 0x024 => { s with ce := { c with classes := setMapWord c.classes 2 v } }
    | 0x026 => { s with ce := { c with classes := setMapWord c.classes 3 v } }
    | 0x030 => { s with ce := { c with sigStk := w1c c.sigStk v } }
    | 0x032 => { s with ce := { c with sigIe := BitVec.ofNat 8 v } }
    | 0x100 => s.setKeeper k { s.keeper k with ceIsel := BitVec.ofNat 11 v }
    | 0x126 => s.setChm i { s.chm i with stat := w1c (s.chm i).stat v }
    | 0x128 => s.setChm i { s.chm i with lateCnt := BitVec.ofNat 16 v }
    | _ => s

/-- CE_CLASS words of absent pods only (01 R50). -/
def ceAbsent (s : State) (off : Nat) : Bool := 0x020 ≤ off && off < 0x028 && nPods s ≤ (off - 0x020) * 4

end Sys2Proof.Machine
end

