-- ==== Sys2Proof/Machine/Eep.lean ====
section
/-! DEFINITION. The EEPROM controller: firmware requests, stores with their checks and hold-up check, polling, refetches,
and the IMG_ registers (12 R495-R532, 04 R206). -/
namespace Sys2Proof.Machine

/-- BUS_CLK cycles in `us` µs, not shortened (01 R32). -/
def usCycles (us : Nat) : Nat := (us * 98304 + 999) / 1000

/-- What an EEPROM byte that was never written reads as: the erased state (log 8). -/
def eepErased : Byte := 0xFF
def eepByte (s : State) (a : Nat) : Byte := tget eepErased s.img.eeprom a
/-- `n` bytes of the EEPROM. -/
def eepRead (s : State) (a n : Nat) : List Byte := (List.range n).map (fun i => eepByte s (a + i))
/-- Write bytes into the EEPROM. -/
def eepWrite (s : State) (a : Nat) (bs : List Byte) : State :=
  { s with img := { s.img with eeprom :=
    (bs.foldl (fun (x : Tab Byte × Nat) b => (tput eepErased x.1 x.2 b, x.2 + 1)) (s.img.eeprom, a)).1 } }

/-- The controller runs: from LINK_CLK in every state but SLEEP (13 R538, R544). -/
def eepRuns (s : State) : Bool := s.pwr.st != .sleep && !s.rst.porHeld

/-! ## Regions and the hold-up check (12 R503, R521-R523) -/

/-- P_E. -/
def eepPage (s : State) : Nat := 64 * 2 ^ s.img.hdr.epage

/-- Every byte of the range lies in `lo ≤ x < hi`. -/
def inRegion (a n lo hi : Nat) : Bool := decide (lo ≤ a) && decide (a + n ≤ hi)

/-- The range has a byte in the slot loaded at the last reset. -/
def inLoaded (s : State) (a n : Nat) : Bool :=
  match s.img.slot.toNat with
  | 1 => decide (a < 0x30000)
  | 2 => decide (0x30000 < a + n) && decide (a < 0x60000)
  | _ => false

/-- 1 ≤ length ≤ P_E, within one EEPROM page. -/
def onePage (s : State) (a n : Nat) : Bool :=
  decide (1 ≤ n) && decide (n ≤ eepPage s) && a / eepPage s == (a + n - 1) / eepPage s

/-- V of R523 in mV. -/
def huVolt (s : State) : Nat := s.pwr.holdup.toNat * s.img.hdr.huDiv / 256
/-- E_avail in µJ. -/
def huAvail (s : State) : Nat :=
  let v := huVolt s
  let m := s.img.hdr.huVmin
  if v ≤ m then 0 else s.img.hdr.huC * (v * v - m * m) / 2000000
/-- The cost of one store as a full page, E_req in µJ. -/
def huCost (s : State) : Nat :=
  let t := ((29 + 9 * eepPage s) * 875 + 767) / 768 + s.img.hdr.twr
  (s.img.hdr.huPwr * t * (256 + s.img.hdr.huMargin) + 255999) / 256000
/-- E_req × (1 + U). -/
def huNeed (s : State) : Nat := huCost s * (1 + s.img.stores.length)

/-- An energy as its register holds it. -/
def energyWord (n : Nat) : W32 := if n < 2 ^ 32 then BitVec.ofNat 32 n else Config.wideEnergy n

/-- The check's energies are captured (12 R530). -/
def huCapture (s : State) : State :=
  { s with img := { s.img with huEav := energyWord (huAvail s), huEreq := energyWord (huNeed s) } }

def imgFlag (s : State) (b : Nat) : State := { s with img := { s.img with flt := setBitTo s.img.flt b true } }
def imgFaddr (s : State) (a : Nat) : State := { s with img := { s.img with faddr := BitVec.ofNat 19 a } }

/-- A store begins. -/
def beginStore (s : State) (src : StoreSrc) (a : Nat) (bs : List Byte) : State :=
  { s with img := { s.img with stores := s.img.stores ++ [{ src := src, addr := a, data := bs }] } }

def storeBusy (s : State) (src : StoreSrc) : Bool := s.img.stores.any (fun x => x.src == src)

/-- The hallmark state as read at the last fuse read: 0 VIRGIN, 1 OPEN, 2 SEALED, 3 RETURNED. -/
def hallmark (s : State) : Nat := s.integ.hallmark.toNat

/-- A link may store (12 R522, 10 R447, 11 R480). -/
def linkMayStore (s : State) (src : StoreSrc) : Bool :=
  hallmark s == 1 || (hallmark s == 2 && src == .chain && s.integ.hmOpen)

/-- IMG_WRITE of a link: the result byte, and the state (12 R521). -/
def linkStore (s : State) (src : StoreSrc) (a : Nat) (bs : List Byte) : Nat × State :=
  let n := bs.length
  if s.pwr.pfailSince then (5, imgFlag s 4)
  else if !linkMayStore s src then (1, s)
  else if !inRegion a n 0 0x60000 then (3, s)
  else if inLoaded s a n then (3, s)
  else if !onePage s a n then (4, s)
  else if storeBusy s src then (6, s)
  else
    let s := huCapture s
    if huAvail s < huNeed s then (2, imgFlag s 1) else (0, beginStore s src a bs)

/-! ## Firmware requests (12 R521, R526, R530) -/

/-- Byte `i` of IMG_BUF. -/
def bufByte (s : State) (i : Nat) : Byte := tget 0 s.img.buf i
def setReq (s : State) (st code : Nat) : State :=
  { s with img := { s.img with reqState := BitVec.ofNat 3 st, reqCode := BitVec.ofNat 4 code } }
/-- A firmware request ends. -/
def endReq (s : State) (st code : Nat) : State := imgFlag (setReq s st code) 0

/-- A firmware request waits or is under way. -/
def reqBusy (s : State) : Bool := s.img.reqState == 1
/-- The request in hand is a read. -/
def reqReads (s : State) : Bool := reqBusy s && s.img.reqRd

/-- IMG_REQ_GO op 1 by keeper `k` (12 R526). A GO while a request waits is ignored. -/
def reqRead (s : State) (k : Nat) : State :=
  let a := s.img.reqAddr.toNat
  let n := s.img.reqLen.toNat
  if reqBusy s then s
  else if !leaseMine s.img.lease k then endReq s 4 1
  else if n = 0 ∨ 256 < n ∨ a / 65536 != (a + n - 1) / 65536 then endReq s 4 4
  else { setReq s 1 0 with img := { (setReq s 1 0).img with readTries := 0, reqRd := true } }

/-- The refusal code of a firmware store, 0 if it begins (12 R521). -/
def storeCheck (s : State) (k : Nat) : Nat :=
  let a := s.img.reqAddr.toNat
  let n := s.img.reqLen.toNat
  if !leaseMine s.img.lease k then 1
  else if s.pwr.pfailSince then 6
  else if !(inRegion a n 0x60000 0x70000 || inRegion a n 0x70000 0x80000 || (inRegion a n 0 0x60000 && hallmark s == 1)) then 2
  else if inLoaded s a n then 3
  else if !onePage s a n then 4
  else if storeBusy s .firmware then 7
  else if huAvail s < huNeed s then 5
  else 0

/-- IMG_REQ_GO op 2 by keeper `k`. -/
def reqStore (s : State) (k : Nat) : State :=
  if reqReads s then s
  else
    let c := storeCheck s k
    let s := if c = 5 ∨ c = 0 then huCapture s else s
    if c = 0 then
      beginStore { setReq s 1 0 with img := { (setReq s 1 0).img with reqRd := false } } .firmware s.img.reqAddr.toNat ((List.range s.img.reqLen.toNat).map (bufByte s))
    else
      let s := if c = 5 then imgFlag s 1 else if c = 6 then imgFlag s 4 else s
      endReq s 4 c

def reqGo (s : State) (k v : Nat) : State :=
  match v % 4 with
  | 1 => reqRead s k
  | 2 => reqStore s k
  | _ => s

/-! ## Transactions (12 R497-R502) -/

/-- The controller serves firmware reads only when no refetch and no begun store waits (12 R502). -/
def readsServed (s : State) : Bool := eepRuns s && s.ss.refetches == [] && s.img.stores == [] && reqReads s

/-- The read of a firmware request ends, or is to be tried again (12 R500, R501). -/
def readAttempt (s : State) (fail : Option EepErr) : State :=
  let a := s.img.reqAddr.toNat
  match fail with
  | none =>
    let bs := eepRead s a s.img.reqLen.toNat
    let b := (bs.foldl (fun (x : Tab Byte × Nat) v => (tput 0 x.1 x.2 v, x.2 + 1)) (s.img.buf, 0)).1
    endReq { s with img := { s.img with buf := b, readTries := 0 } } 3 0
  | some .busStuck => endReq (imgFlag (imgFaddr { s with img := { s.img with readTries := 0 } } a) 3) 5 9
  | some .noack =>
    if s.img.readTries < 3 then
      { s with img := { s.img with readTries := s.img.readTries + 1, readAt := s.now + msCycles } }
    else endReq (imgFlag (imgFaddr { s with img := { s.img with readTries := 0 } } a) 2) 5 8

/-- The first transaction of a firmware read. -/
def eepReadFirst (s : State) (fail : Option EepErr) : State :=
  if readsServed s && s.img.readTries == 0 then readAttempt s fail else s
/-- A later one, 1 ms after the failure before it. -/
def eepReadAgain (s : State) (fail : Option EepErr) : State :=
  if readsServed s && s.img.readTries != 0 && due s s.img.readAt then readAttempt s fail else s

/-- The store at the head ends: its firmware request ends with it; a read asked for since then stays in hand. -/
def dropStore (s : State) (st code : Nat) : State :=
  match s.img.stores with
  | [] => s
  | x :: rest =>
    let s := { s with img := { s.img with stores := rest } }
    if x.src == .firmware then (if reqReads s then imgFlag s 0 else endReq s st code) else s

/-- The write transaction of the oldest begun store (12 R498, R501). -/
def storeWrite (s : State) (stuck : Bool) : State :=
  match s.img.stores with
  | [] => s
  | x :: rest =>
    if x.polling || !eepRuns s || s.ss.refetches != [] then s
    else if stuck then dropStore (imgFlag (imgFaddr s x.addr) 3) 5 9
    else
      let s := eepWrite s x.addr x.data
      { s with img := { s.img with stores := { x with polling := true, pollFrom := s.now } :: rest } }

/-- The oldest begun store fails with NOACK (12 R499). -/
def storeUnheard (s : State) (x : EepStore) : State := dropStore (imgFlag (imgFaddr s x.addr) 2) 5 8

/-- The device acknowledges a poll: in time, or after TWR has passed (12 R499). -/
def storeAcked (s : State) : State :=
  match s.img.stores with
  | [] => s
  | x :: _ =>
    if !x.polling then s
    else if 1000 * (s.now - x.pollFrom) ≤ 98304 * s.img.hdr.twr then dropStore s 3 0
    else storeUnheard s x

/-- TWR has passed without an acknowledge. -/
def storeSilent (s : State) : State :=
  match s.img.stores with
  | [] => s
  | x :: _ => if x.polling && due s (x.pollFrom + usCycles s.img.hdr.twr) then storeUnheard s x else s

/-- Every begun store finishes (12 R524). -/
def finishStores (s : State) : State :=
  s.img.stores.foldl (fun s x => dropStore (if x.polling then s else eepWrite s x.addr x.data) 3 0) s

/-! ## Refetches (04 R206, R207; 12 R504) -/

/-- Every byte of an image RAM word fails its parity. -/
def markWord (s : State) (a : Nat) : State := (List.range 4).foldl (fun s i => markByte .iram s (a + i)) s

/-- The oldest refetch: the word is read from the loaded slot and rewritten, or the read fails; it may read poisoned again. -/
def refetchWord (s : State) (o : RefetchEnd) : State :=
  match s.ss.refetches with
  | [] => s
  | w :: rest =>
    if !eepRuns s then s
    else
      let s := { s with ss := { s.ss with refetches := rest } }
      let a := 4 * w
      let flag (s : State) (b : Nat) : State := { s with ss := { s.ss with flt := setBitTo s.ss.flt b true } }
      let lost (s : State) : State := { flag s 5 with ss := { (flag s 5).ss with imgAddr := BitVec.ofNat 18 a } }
      let inImage := a < s.img.len.toNat
      match (match o with | .failed e => if inImage then some e else none | _ => none) with
      | some e =>
        lost (imgFlag (imgFaddr s (a + (if s.img.slot = 2 then 0x30000 else 0))) (match e with | .noack => 2 | .busStuck => 3))
      | none =>
        let bs := if inImage then eepRead s (a + (if s.img.slot = 2 then 0x30000 else 0)) 4 else [0, 0, 0, 0]
        let s := putBytes .iram s a bs
        if o = .poisoned then lost (markWord s a)
        else { flag s 4 with ss := { (flag s 4).ss with imgRep := bump s 8 0x05E s.ss.imgRep 1 } }

/-! ## Registers (12 R530, R531) -/

/-- The state of a request in hand: waiting, or active when the controller serves it. -/
def reqStateRead (s : State) : Nat :=
  if !reqBusy s then s.img.reqState.toNat
  else if s.ss.refetches != [] then 1
  else match s.img.stores with
    | [] => 2
    | x :: _ => if x.src == .firmware && !s.img.reqRd then 2 else 1

def imgStatus (i : Img) : Nat :=
  i.slot.toNat + b2n i.fallback * 4 + b2n i.warn * 8 + b2n i.planSkipped * 16 + b2n i.armFail * 32 + b2n i.noImage * 64 +
  i.reasonA.toNat * 256 + i.reasonB.toNat * 4096

/-- IMG_HU_V. -/
def huVoltRead (s : State) : Nat := if huVolt s < 65536 then huVolt s else (Config.wideVolt (huVolt s)).toNat

def imgRead (s : State) (k off : Nat) : Nat :=
  let i := s.img
  if 0x100 ≤ off ∧ off < 0x200 then (bufByte s (off - 0x100)).toNat + 256 * (bufByte s (off - 0x100 + 1)).toNat
  else match off with
    | 0x000 => imgStatus i
    | 0x002 => i.seq.toNat
    | 0x006 => i.len.toNat
    | 0x00A => i.loadMs.toNat
    | 0x00C => i.absCnt.toNat
    | 0x00E => i.absAddr.toNat
    | 0x020 => leaseRead i.lease k
    | 0x022 => i.lease.tmo.toNat
    | 0x030 => i.reqAddr.toNat
    | 0x034 => i.reqLen.toNat
    | 0x038 => reqStateRead s + i.reqCode.toNat * 16
    | 0x040 => huVoltRead s
    | 0x042 => i.huEav.toNat
    | 0x046 => i.huEreq.toNat
    | 0x050 => i.flt.toNat + i.lastOwner.val * 256
    | 0x052 => i.fltIe.toNat
    | 0x054 => i.faddr.toNat
    | _ => 0

def imgWrite (s : State) (k off v : Nat) : State :=
  let i := s.img
  if 0x100 ≤ off ∧ off < 0x200 then
    (if reqBusy s then s
     else { s with img := { i with buf := tput 0 (tput 0 i.buf (off - 0x100) (BitVec.ofNat 8 v)) (off - 0x100 + 1)
                                            (BitVec.ofNat 8 (v / 256)) } })
  else match off with
    | 0x020 => { s with img := { i with lease := leaseOp i.lease (keeperFin k) s.cyc v } }
    | 0x022 => { s with img := { i with lease := { i.lease with tmo := BitVec.ofNat 16 v } } }
    | 0x030 => if reqBusy s then s else { s with img := { i with reqAddr := BitVec.ofNat 19 v } }
    | 0x034 => if reqBusy s then s else { s with img := { i with reqLen := BitVec.ofNat 9 v } }
    | 0x036 => reqGo s k v
    | 0x050 => { s with img := { i with flt := w1c i.flt v } }
    | 0x052 => { s with img := { i with fltIe := BitVec.ofNat 6 v } }
    | _ => s

def imgWide (off : Nat) : Option (Nat × Nat) :=
  match off with
  | 0x002 | 0x004 => some (0x002, 2)
  | 0x006 | 0x008 => some (0x006, 2)
  | 0x00E | 0x010 => some (0x00E, 2)
  | 0x030 | 0x032 => some (0x030, 2)
  | 0x042 | 0x044 => some (0x042, 2)
  | 0x046 | 0x048 => some (0x046, 2)
  | 0x054 | 0x056 => some (0x054, 2)
  | _ => none

end Sys2Proof.Machine
end

