-- ==== Sys2Proof/Machine/Link.lean ====
section
/-! DEFINITION. What the bench chain and the two-wire port share: check codes, the status and notice words, and the requests
that both serve (10 R432-R450, 11 R474). -/
namespace Sys2Proof.Machine

/-! ## Byte order and check codes -/

/-- The `n` low bytes of a number, most significant first (10 R432). -/
def beBytes (v : Nat) : Nat → List Byte
  | 0 => []
  | n + 1 => BitVec.ofNat 8 (v / 256 ^ n) :: beBytes v n
/-- The number that bytes spell, most significant first. -/
def beNat (bs : List Byte) : Nat := bs.foldl (fun a b => a * 256 + b.toNat) 0

/-- One bit of the CRC-16 (10 R433). -/
def crc16Bit (c : Word) : Word := if bitAt c 15 then (c <<< 1) ^^^ 0x1021#16 else c <<< 1
def crc16Byte (c : Word) (b : Byte) : Word := (List.range 8).foldl (fun c _ => crc16Bit c) (c ^^^ (b.setWidth 16 <<< 8))
/-- CRC-16, polynomial 0x1021, initial value 0xFFFF (10 R433). -/
def crc16 (bs : List Byte) : Word := bs.foldl crc16Byte 0xFFFF

def crc8Bit (c : Byte) : Byte := if bitAt c 7 then (c <<< 1) ^^^ 0x07#8 else c <<< 1
def crc8Byte (c b : Byte) : Byte := (List.range 8).foldl (fun c _ => crc8Bit c) (c ^^^ b)
/-- The SMBus packet error code (11, The check byte). -/
def crc8 (bs : List Byte) : Byte := bs.foldl crc8Byte 0

/-! ## State of the links (10 R441, R448, R450) -/

/-- The hub answers on its links: boot BIST has ended, and no reset is in progress (10 R448). -/
def linksAnswer (s : State) : Bool := s.rst.linksUp && !s.rst.pending && !s.rst.porHeld

def pwrCode : PwrState → Nat
  | .run => 0
  | .doze => 1
  | .sleep => 2

/-- STATE (10 R441). -/
def linkState (s : State) : Nat := pwrCode s.pwr.st + hallmark s * 4

/-- Until the image load completes, in SAFE state and in RETURNED, few requests are served. -/
def linkLimited (s : State) : Bool := !s.rst.loaded || s.integ.safe || hallmark s == 3

/-- FAULTS (10 R441). -/
def linkFaults (s : State) : Nat :=
  b2n (anyPairFault s) + b2n (s.ss.flt != 0) * 2 + b2n (s.arb.block != 0) * 4 + b2n (s.ce.flt != 0) * 8 +
  b2n (s.rc.flt != 0) * 16 + b2n (s.io.loops.any (fun e => e.2.compliance)) * 32 + b2n (s.io.ilMis != 0) * 64 +
  b2n (s.io.ports.any (fun e => e.2.stat &&& 0x3E#7 != 0)) * 128

/-! ## What both links answer -/

/-- The result of a request: the bytes after the status byte with the poison flag, or an error with code and detail. -/
inductive LinkRes where
  | ok (bytes : List Byte) (poison : Bool)
  | err (code : Nat) (detail : Nat)
  deriving DecidableEq, Repr

/-- An answer without poisoned words. -/
def LinkRes.plain (bs : List Byte) : LinkRes := .ok bs false

def byteAt (bs : List Byte) (i : Nat) : Nat := (nth 0 bs i).toNat

/-- STATUS (10 R441) with the notice word of the link. -/
def statusBytes (s : State) (notice : Nat) : List Byte :=
  beBytes (linkState s) 1 ++ beBytes notice 2 ++
  beBytes (capWord s.variant 0) 2 ++ beBytes (capWord s.variant 1) 2 ++ beBytes (capWord s.variant 2) 2 ++
  beBytes (capWord s.variant 3) 2 ++ beBytes (linkFaults s) 2 ++ beBytes s.epoch 1 ++ beBytes s.ts 6

/-- A reader has looked at the stream's status (04 R192). -/
def markSeen (s : State) (n : Nat) : State := s.setStrm n { s.strm n with seen := true }

/-- STREAM_STAT (10 R441, R442). -/
def streamStat (s : State) (n : Nat) : LinkRes × State :=
  let st := s.strm n
  (.plain (beBytes n 1 ++ beBytes (dctrlRead st) 2 ++ beBytes (dstatRead st) 2 ++ beBytes st.head 4 ++ beBytes st.tail 4 ++
    beBytes (strmLevel st) 4 ++ beBytes st.wm.toNat 4), markSeen s n)

/-- `n` consecutive words of the sample store with their marks, through a readout port. -/
def readWords (s : State) (base n : Nat) : List (Word × Bool) × State :=
  (List.range n).foldl (fun (a : List (Word × Bool) × State) i =>
    let r := readStore a.2 (base + i)
    (a.1 ++ [r.1], r.2)) ([], s)

/-- The bitmap of poisoned words, eight to a byte (10 R443). -/
def poisonMap (ms : List Bool) : List Byte :=
  (List.range ((ms.length + 7) / 8)).map (fun k =>
    BitVec.ofNat 8 ((List.range 8).foldl (fun a i => a + b2n (nth false ms (8 * k + i)) * 2 ^ i) 0))

/-- Words read from the store after their header bytes; a blocked port gives REFUSED (10 R443, 05 R236). -/
def readAnswer (s : State) (port : Nat) (hd : List Byte) (base n : Nat) : LinkRes × State :=
  if n != 0 && portBlocked s port then (.err 8 s.arb.block.toNat, s)
  else
    let r := readWords s base n
    let bad := r.1.any (·.2)
    (.ok (hd ++ beBytes n 1 ++ r.1.flatMap (fun x => beBytes x.1.toNat 2) ++ (if bad then poisonMap (r.1.map (·.2)) else [])) bad,
     r.2)

/-- STREAM_READ (10 R443): stream, position, max. -/
def streamRead (s : State) (port : Nat) (a : List Byte) : LinkRes × State :=
  let n := byteAt a 0
  let pos := beNat ((a.drop 1).take 4)
  let mx := byteAt a 5
  let st := s.strm n
  let w := strmWrap st
  if mx = 0 ∨ 108 < mx then (.err 3 5, s)
  else if !st.armed then (.err 7 n, s)
  else if w ≤ pos ∨ strmLevel st < posDiff w pos st.tail then
    (if posDiff w pos st.head < w / 2 then (.err 6 (st.head % 65536), s) else (.err 5 (st.tail % 65536), s))
  else
    readAnswer s port (beBytes n 1 ++ beBytes pos 4) (posWord s st pos) (min mx (min (posDiff w st.head pos) (2048 - pos % 2048)))

/-- STREAM_ACK (10 R445): stream, TAIL. -/
def streamAck (s : State) (a : List Byte) : LinkRes × State :=
  let n := byteAt a 0
  let st := s.strm n
  if !st.armed then (.err 7 n, s)
  else
    let st' := tailWriteAt s n (beNat ((a.drop 1).take 4))
    (.plain (beBytes n 1 ++ beBytes st'.tail 4 ++ beBytes (dstatRead st') 2), s.setStrm n st')

/-- CLASS_READ: absent pods read class 0 (10 R441). -/
def classBytes (s : State) : List Byte := leBytes (s.ce.classes.toNat % 4 ^ nPods s) 8

/-- OUTPUT_READ (10 R444): kind, first, count. -/
def outputRead (s : State) (a : List Byte) : LinkRes :=
  let kind := byteAt a 0
  let f := byteAt a 1
  let c := byteAt a 2
  let top := if kind = 1 then 16 else 8
  let have_ := if kind = 1 then nVouts s else nLoops s
  if kind = 0 then
    .plain (beBytes (ilRead s 0) 2 ++ beBytes (ilRead s 2) 2 ++ beBytes (ilRead s 4) 2 ++ beBytes (ilRead s 6) 2)
  else if 2 < kind then .err 3 0
  else if top ≤ f then .err 3 1
  else if c = 0 ∨ top < f + c then .err 3 2
  else if have_ < f + c then .err 9 (max f have_)
  else if kind = 1 then
    .plain ((List.range c).flatMap (fun i => beBytes (tget 0x8000 s.io.voCode (f + i)).toNat 2))
  else .plain ((List.range c).flatMap (fun i => beBytes (s.lout (f + i)).cmd.toNat 2 ++ beBytes (s.lout (f + i)).meas.toNat 2))

/-- SENS_READ (10 R441): first pod, count. -/
def sensRead (s : State) (a : List Byte) : LinkRes :=
  let f := byteAt a 0
  let c := byteAt a 1
  if 32 ≤ f then .err 3 0
  else if c = 0 ∨ 32 < f + c then .err 3 1
  else if nPods s < f + c then .err 9 (max f (nPods s))
  else .plain (beBytes f 1 ++ beBytes c 1 ++ (List.range c).flatMap (fun i =>
    beBytes (tget 0 s.fe.sensA (f + i)).toNat 2 ++ beBytes (tget 0 s.fe.sensG (f + i)).toNat 2))

/-- LOCKET_READ (10 R441, R443): page, word, max. -/
def locketRead (s : State) (port : Nat) (a : List Byte) : LinkRes × State :=
  let p := byteAt a 0
  let w := beNat ((a.drop 1).take 2)
  let mx := byteAt a 3
  if 15 < p then (.err 3 0, s)
  else if 2047 < w then (.err 3 1, s)
  else if mx = 0 ∨ 108 < mx then (.err 3 3, s)
  else readAnswer s port (a.take 3) (p * 2048 + w) (min mx (2048 - w))

/-- IMG_WRITE (10 R447): address, data. -/
def imgWriteLink (s : State) (src : StoreSrc) (a : List Byte) : LinkRes × State :=
  let bs := a.drop 3
  let r := linkStore s src (beNat (a.take 3)) bs
  (.plain (a.take 3 ++ beBytes bs.length 1 ++ beBytes r.1 1), r.2)

/-- Mail bytes into the words of a mail buffer (10 R461): byte 2k in [7:0]; words beyond the data are 0. -/
def mailWords (bs : List Byte) : Tab Word :=
  ((packBytes bs).foldl (fun (x : Tab Word × Nat) w => (tput 0 x.1 x.2 w, x.2 + 1)) ([], 0)).1
/-- The first `n` bytes of a mail buffer. -/
def mailBytes (t : Tab Word) (n : Nat) : List Byte :=
  (List.range n).map (fun i => BitVec.ofNat 8 (fld (tget 0 t (i / 2)).toNat (8 * (i % 2)) 8))

end Sys2Proof.Machine
end

