-- ==== Sys2Proof/Machine/Bc.lean ====
section
/-! DEFINITION. The bench chain link: frames, the replay window, MAIL, notices, rates and the BC_ registers (10). -/
namespace Sys2Proof.Machine

/-- The notice word (10 R450). -/
def bcNotice (s : State) : Nat := noticeLive s + b2n s.bc.resetSince * 32 + s.bc.noticeFw.toNat * 256

/-- RSTAT (10 R436) with the given DUP, FRESH, PENDING and POISON. -/
def rstat (s : State) (dup fresh pend pois : Bool) : Byte :=
  BitVec.ofNat 8 (b2n dup + b2n fresh * 2 + b2n pend * 4 + b2n pois * 8 + b2n (bcNotice s &&& s.bc.noticeMask.toNat != 0) * 16 +
    b2n s.integ.safe * 32 + b2n s.bc.lowRate * 64)

/-- The bytes that the CRC of a frame covers (10 R432, R433). -/
def frameBody (dest src : Nat) (seq : Word) (type : Byte) (payload : List Byte) : List Byte :=
  [BitVec.ofNat 8 dest, BitVec.ofNat 8 src] ++ beBytes seq.toNat 2 ++ [type, BitVec.ofNat 8 payload.length] ++ payload
/-- A whole frame with preamble and CRC. -/
def frameBytes (dest src : Nat) (seq : Word) (type : Byte) (payload : List Byte) : List Byte :=
  let b := frameBody dest src seq type payload
  [0x55, 0xD5] ++ b ++ beBytes (crc16 b).toNat 2

/-! ## The replay window (10 R453, R454) -/

/-- The source's window. -/
def bcWindow (s : State) (src : Byte) : List WinEntry :=
  match s.bc.windows.find? (fun w => w.src == src) with
  | some w => w.entries
  | none => []

/-- The source has been heard: its window moves to the front; a fifth source takes over the least recently heard. -/
def bcHeard (s : State) (src : Byte) : State :=
  let mine : Window := ⟨src, bcWindow s src⟩
  let known := s.bc.windows.any (fun w => w.src == src)
  let rest := s.bc.windows.filter (fun w => w.src != src)
  let evict := !known && decide (4 ≤ rest.length)
  { s with bc := { s.bc with windows := mine :: rest.take 3, stat := if evict then s.bc.stat ||| 0x20 else s.bc.stat } }

/-- Change the window of a source. -/
def bcSetWindow (s : State) (src : Byte) (f : List WinEntry → List WinEntry) : State :=
  { s with bc := { s.bc with windows := s.bc.windows.map (fun w => if w.src == src then { w with entries := f w.entries } else w) } }

/-- The stored reply of an entry is replaced. -/
def bcRestore (s : State) (src : Byte) (seq : Word) (type : Byte) (payload : List Byte) : State :=
  bcSetWindow s src (fun es => es.map (fun e => if e.seq == seq then { e with type := type, payload := payload } else e))

/-! ## Requests -/

def bcSleepTypes : List Nat := [0x01, 0x02, 0x0E]
def bcSafeTypes : List Nat := [0x01, 0x02, 0x0A, 0x0E]
/-- The type is served in the present state (10 R441, R448). -/
def bcServed (s : State) (type : Nat) : Bool :=
  (s.pwr.st != .sleep || bcSleepTypes.any (fun t => t == type)) && (!linkLimited s || bcSafeTypes.any (fun t => t == type))

/-- Payload lengths of a type (10 R441). -/
def bcLens : Nat → Nat × Nat
  | 0x03 => (1, 1)
  | 0x04 => (6, 6)
  | 0x05 => (5, 5)
  | 0x07 => (3, 3)
  | 0x08 => (2, 2)
  | 0x09 => (1, 239)
  | 0x0A => (4, 4)
  | 0x0B => (4, 131)
  | 0x0F => (2, 2)
  | 0x10 => (2, 2)
  | _ => (0, 0)

/-- What a request does: an answer; MAIL and CALL answer otherwise. -/
inductive BcDone where
  | answer (r : LinkRes)
  | waits
  | silent
  deriving DecidableEq, Repr

/-- The reply of a result (10 R436, R449). -/
def bcReplyOf (s : State) (h : BcHdr) (type : Nat) (fresh : Bool) : LinkRes → BcReply
  | .ok bs p => { dest := h.src, seq := h.seq, type := BitVec.ofNat 8 (type + 0x80), payload := rstat s false fresh false p :: bs }
  | .err c d => { dest := h.src, seq := h.seq, type := 0xFF,
                  payload := [rstat s false fresh false false, BitVec.ofNat 8 type, BitVec.ofNat 8 c] ++ beBytes d 2 }

/-- The hub takes frames addressed so: a valid source, its own address or broadcast (10 R435). -/
def bcAccepts (s : State) (h : BcHdr) : Bool :=
  linksAnswer s && h.src != 0xFF && (h.dest.toNat == s.bc.addr.toNat || h.dest == 0xFF)

/-- Requests executed, wrapping; firmware's value stands (00 R23). -/
def bcCount (s : State) : State := if s.fwWrote 18 0x022 then s else { s with bc := { s.bc with reqCnt := s.bc.reqCnt + 1 } }

/-- State and length checks, then the request's own effect (10 R448, R449). -/
def bcRun (s : State) (type : Nat) (pl : List Byte) (run : State → List Byte → BcDone × State) : BcDone × State :=
  if !bcServed s type then (.answer (.err 4 (linkState s)), s)
  else if pl.length < (bcLens type).1 ∨ (bcLens type).2 < pl.length then (.answer (.err 2 pl.length), s)
  else run s pl

/-- A unicast request that is in no window: executed and recorded (10 R453). `tweak` adds marks to the reply. -/
def bcExecute (s : State) (h : BcHdr) (type : Nat) (crc : Word) (fresh : Bool) (tweak : BcReply → BcReply)
    (run : State → BcDone × State) : State :=
  let r := run (bcCount s)
  let rec_ (s : State) (t : Byte) (p : List Byte) : State := bcSetWindow s h.src (fun es => (⟨h.seq, crc, t, p⟩ :: es).take 32)
  match r.1 with
  | .answer a =>
    let rep := bcReplyOf s h type fresh a
    let t := rec_ r.2 rep.type rep.payload
    { t with bc := { t.bc with reply := some (match a with | .ok _ _ => tweak rep | .err _ _ => rep) } }
  | .waits => rec_ r.2 0 []
  | .silent => rec_ r.2 0xFE []

/-- A repeat of a request in the window (10 R453, R446): its stored reply with DUP, and the present rate. -/
def bcRepeat (s : State) (h : BcHdr) (type : Nat) (e : WinEntry) : State :=
  let s := { s with bc := { s.bc with dupCnt := bump s 18 0x024 s.bc.dupCnt 1 } }
  let send (s : State) (t : Byte) (p : List Byte) : State :=
    { s with bc := { s.bc with reply := some { dest := h.src, seq := h.seq, type := t, payload := p } } }
  let mark : List Byte → List Byte
    | b :: bs => ((b ||| 1) &&& 0xBF ||| (if s.bc.lowRate then 0x40 else 0)) :: bs
    | [] => []
  if e.type = 0xFE then s
  else if e.type = 0 then
    let fresh := match s.bc.mail with | some m => m.fresh | none => false
    let s := { s with bc := { s.bc with mail := s.bc.mail.map (fun m => { m with waiting := false }) } }
    let p := [rstat s false fresh true false]
    send (bcRestore s h.src h.seq (BitVec.ofNat 8 (type + 0x80)) p) (BitVec.ofNat 8 (type + 0x80)) (mark p)
  else send s e.type (mark e.payload)

/-- A request frame with a valid CRC (10 R435, R453). `bcast` is what a broadcast of it does. -/
def bcRequest (s : State) (h : BcHdr) (type : Nat) (pl : List Byte) (bcast : State → State) (tweak : BcReply → BcReply)
    (run : State → BcDone × State) : State :=
  if !bcAccepts s h then s
  else if h.dest = 0xFF then bcast s
  else
    let crc := crc16 (frameBody h.dest.toNat h.src.toNat h.seq (BitVec.ofNat 8 type) pl)
    let es := bcWindow s h.src
    let s := bcHeard s h.src
    match es.find? (fun e => e.seq == h.seq) with
    | some e =>
      if e.crc = crc then bcRepeat s h type e
      else
        { s with bc := { s.bc with stat := s.bc.stat ||| 4, reply := some (bcReplyOf s h type false (.err 13 0)) } }
    | none => bcExecute s h type crc (es == []) tweak run

/-- A request whose answer is all of its effect's outcome. -/
def bcServe (s : State) (h : BcHdr) (type : Nat) (pl : List Byte) (tweak : BcReply → BcReply)
    (run : State → List Byte → LinkRes × State) : State :=
  bcRequest s h type pl (fun s => s) tweak (fun s => bcRun s type pl (fun s a => let r := run s a; (.answer r.1, r.2)))

/-- POLL. -/
def pollRun (s : State) (_ : List Byte) : LinkRes × State := (.plain (beBytes (linkState s) 1 ++ beBytes (bcNotice s) 2), s)
/-- STATUS clears notice bit 5 and BC_NOTICE_FW after capturing them (10 R450); firmware's value stands (00 R23). -/
def statusRun (s : State) (_ : List Byte) : LinkRes × State :=
  (.plain (statusBytes s (bcNotice s)),
   { s with bc := { s.bc with resetSince := false, noticeFw := if s.fwWrote 18 0x008 then s.bc.noticeFw else 0 } })

/-- MAIL (10 R446). -/
def mailRun (h : BcHdr) (fresh : Bool) (s : State) (pl : List Byte) : BcDone × State :=
  match s.bc.mail with
  | some m => (.answer (.err 11 m.seq.toNat), { s with bc := { s.bc with stat := s.bc.stat ||| 0x40 } })
  | none =>
    (.waits, { s with bc := { s.bc with
      mailRx := mailWords pl, mailRxLen := BitVec.ofNat 16 (h.src.toNat * 256 + pl.length), mailSeq := h.seq,
      mail := some ⟨h.src, h.seq, true, fresh⟩, mailUntil := s.now + usCycles (min 38 s.bc.mailWait.toNat),
      stat := s.bc.stat ||| 1 } })

/-- The reply of the pending MAIL is stored; it is sent if the MAIL still waits. -/
def mailReply (s : State) (m : Mail) (pend : Bool) (bs : List Byte) : State :=
  let p := rstat s false m.fresh pend false :: bs
  let s := bcRestore s m.src m.seq 0x89 p
  if m.waiting then { s with bc := { s.bc with reply := some { dest := m.src, seq := m.seq, type := 0x89, payload := p } } } else s

/-- BC_MAIL_GO (10 R446, R461). -/
def mailGo (s : State) (n : Nat) : State :=
  match s.bc.mail with
  | none => s
  | some m =>
    let s := mailReply s m false (mailBytes s.bc.mailTx (min 239 n))
    { s with bc := { s.bc with mail := none } }

/-- BC_MAIL_WAIT has passed. -/
def mailExpire (s : State) : State :=
  match s.bc.mail with
  | some m =>
    if m.waiting && due s s.bc.mailUntil then
      let s := mailReply s m true []
      { s with bc := { s.bc with mail := some { m with waiting := false } } }
    else s
  | none => s

/-- A WAKE in SLEEP asks the power controller to leave it (10 R458). -/
def bcWoken (s : State) : State :=
  { s with bc := { s.bc with stat := s.bc.stat ||| 8, wakeReq := true },
           pwr := { s.pwr with wake := (match s.pwr.wake with | some w => some w | none => some (2, 0)) } }
def wakeRun (s : State) (_ : List Byte) : LinkRes × State :=
  (.plain (beBytes (linkState s) 1), if s.pwr.st = .sleep then bcWoken s else s)

/-- RESET (10 R460). -/
def resetRun (s : State) (pl : List Byte) : LinkRes × State := (if pl = [0xC3, 0x3C] then .plain [] else .err 10 0, s)

/-- CALL (10 R451): a notice is scheduled in the hub's slot. -/
def callRun (h : BcHdr) (s : State) (pl : List Byte) : BcDone × State :=
  let a := byteAt pl 0
  let n := byteAt pl 1
  let me := s.bc.addr.toNat
  if n = 0 ∨ 32 < n then (.answer (.err 3 1), s)
  else if s.bc.callEn && decide (a ≤ me) && decide (me < a + n) && (bcNotice s &&& s.bc.noticeMask.toNat) != 0 then
    let pay := rstat s false false false false :: (beBytes (linkState s) 1 ++ beBytes (bcNotice s) 2)
    let rep : BcReply := { dest := h.src, seq := 0, type := 0x90, payload := pay }
    (.silent, { s with bc := { s.bc with notice := some rep } })
  else (.silent, s)

/-! ## Sending (10 R440, R451, R458, R460) -/

/-- What follows the end of a reply, sent or not: a chain reset falls due, the full rate 2 ms later. -/
def bcAfter (s : State) (r : BcReply) : State :=
  { s with bc := { s.bc with reply := none, resetDue := s.bc.resetDue || r.resets,
                             rateDue := if r.wakes then some s.now else s.bc.rateDue } }

/-- The reply is sent, unless a start bit came first. -/
def bcSend (s : State) (startBitFirst : Bool) : State :=
  match s.bc.reply with
  | none => s
  | some r =>
    let s := bcAfter s r
    if startBitFirst then s
    else { s with bc := { s.bc with sent := frameBytes r.dest.toNat s.bc.addr.toNat r.seq r.type r.payload } }

/-- The notice is sent with BC_NSEQ, which then increments (10 R451). DESIGN CHOICE (log 63): after 0xFFFF it wraps to 0; the
spec gives it no end. -/
def bcSendNotice (s : State) : State :=
  match s.bc.notice with
  | none => s
  | some r =>
    { s with bc := { s.bc with notice := none, nseq := s.bc.nseq + 1,
                               sent := frameBytes r.dest.toNat s.bc.addr.toNat s.bc.nseq r.type r.payload } }

/-- A reply whose words pass port 6 is refused before it begins (10 R443). -/
def bcRefused (s : State) : State :=
  match s.bc.reply with
  | some r =>
    if r.reads then
      let pay := [(nth 0 r.payload 0) &&& 0xF7, r.type - 0x80, 8] ++ beBytes s.arb.block.toNat 2
      let e : BcReply := { dest := r.dest, seq := r.seq, type := 0xFF, payload := pay }
      let s := bcRestore s r.dest r.seq e.type e.payload
      { s with bc := { s.bc with reply := some e } }
    else s
  | none => s

/-- The full rate falls due 2 ms after the WAKE's reply (10 R458), not before step 4 of the exit (15 R623). -/
def bcFullRate (s : State) : State :=
  match s.bc.rateDue with
  | some t =>
    if due s (t + 2 * msCycles) && s.pwr.st != .sleep then { s with bc := { s.bc with lowRate := false, rateDue := none } } else s
  | none => s

/-- Step 4 of an exit that a watch event caused: the full rate at once, or 2 ms after a low-rate reply in progress (15 R625). -/
def bcExitRate (s : State) : State :=
  match s.bc.reply with
  | some r => { s with bc := { s.bc with reply := some { r with wakes := true } } }
  | none => { s with bc := { s.bc with lowRate := false, rateDue := none } }

/-! ## Requests that need a stopped unit (13 R538) -/

/-- The requests that read or write a unit that runs from BUS_CLK (log 64). -/
def busTypes : List Nat := [0x03, 0x04, 0x05, 0x06, 0x07, 0x08, 0x09, 0x0A]

/-- What such a request does when its unit runs. -/
def bcDo (s : State) (h : BcHdr) (type : Nat) (pl : List Byte) : State :=
  match type with
  | 0x03 => bcServe s h 0x03 pl (fun r => r) (fun s a => streamStat s (byteAt a 0))
  | 0x04 => bcServe s h 0x04 pl (fun r => { r with reads := true }) (fun s a => streamRead s 6 a)
  | 0x05 => bcServe s h 0x05 pl (fun r => r) streamAck
  | 0x06 => bcServe s h 0x06 pl (fun r => r) (fun s _ => (.plain (classBytes s), s))
  | 0x07 => bcServe s h 0x07 pl (fun r => r) (fun s a => (outputRead s a, s))
  | 0x08 => bcServe s h 0x08 pl (fun r => r) (fun s a => (sensRead s a, s))
  | 0x09 => bcRequest s h 0x09 pl (fun s => s) (fun r => r) (fun t => bcRun t 0x09 pl (mailRun h (bcWindow s h.src == [])))
  | 0x0A => bcServe s h 0x0A pl (fun r => { r with reads := true }) (fun s a => locketRead s 6 a)
  | _ => s

/-- The request waits: the PLL is unlocked, and the request would be executed. -/
def bcWaits (s : State) (h : BcHdr) (type : Nat) (pl : List Byte) : Bool :=
  s.pwr.unlockAt.isSome && bcAccepts s h && h.dest != 0xFF && bcServed s type && decide ((bcLens type).1 ≤ pl.length) &&
  decide (pl.length ≤ (bcLens type).2) && !(bcWindow s h.src).any (fun e => e.seq == h.seq)

/-- A request that needs a unit which runs from BUS_CLK. -/
def bcBus (s : State) (h : BcHdr) (type : Nat) (pl : List Byte) : State :=
  if bcWaits s h type pl then { s with bc := { s.bc with held := s.bc.held ++ [⟨h, type, pl⟩] } } else bcDo s h type pl

/-- At relock the requests that wait are executed in turn. -/
def bcHeldRun (s : State) : State :=
  s.bc.held.foldl (fun s x => bcDo s x.head x.type x.payload) { s with bc := { s.bc with held := [] } }

/-- A frame is discarded (10 R434). -/
def bcDiscard (s : State) (e : FrameErr) : State :=
  if !linksAnswer s || (s.pwr.st == .sleep && e != .crc) then s
  else { s with bc := { s.bc with rxErr := bump s 18 0x020 s.bc.rxErr 1, stat := s.bc.stat ||| 2 } }

/-! ## Registers (10 R461) -/

def bcRead (s : State) (off : Nat) : Nat :=
  let b := s.bc
  if 0x100 ≤ off ∧ off < 0x1F0 then (tget 0 b.mailRx ((off - 0x100) / 2)).toNat
  else if 0x200 ≤ off ∧ off < 0x2F0 then (tget 0 b.mailTx ((off - 0x200) / 2)).toNat
  else match off with
    | 0x000 => b.addr.toNat
    | 0x002 => b2n b.callEn
    | 0x004 => b.stat.toNat + b2n b.lowRate * 256 + b2n b.mail.isSome * 512
    | 0x006 => b.ie.toNat
    | 0x008 => b.noticeFw.toNat
    | 0x00A => bcNotice s
    | 0x00C => b.noticeMask.toNat
    | 0x00E => b.mailWait.toNat
    | 0x010 => b.mailRxLen.toNat
    | 0x012 => b.mailSeq.toNat
    | 0x020 => b.rxErr.toNat
    | 0x022 => b.reqCnt.toNat
    | 0x024 => b.dupCnt.toNat
    | 0x026 => b.nseq.toNat
    | _ => 0

def bcWrite (s : State) (off v : Nat) : State :=
  let b := s.bc
  if 0x200 ≤ off ∧ off < 0x2F0 then { s with bc := { b with mailTx := tput 0 b.mailTx ((off - 0x200) / 2) (BitVec.ofNat 16 v) } }
  else match off with
    | 0x002 => { s with bc := { b with callEn := v.testBit 0 } }
    | 0x004 => { s with bc := { b with stat := w1c b.stat v } }
    | 0x006 => { s with bc := { b with ie := BitVec.ofNat 7 v } }
    | 0x008 => { s with bc := { b with noticeFw := BitVec.ofNat 8 v } }
    | 0x00C => { s with bc := { b with noticeMask := BitVec.ofNat 16 v } }
    | 0x00E => { s with bc := { b with mailWait := BitVec.ofNat 6 v } }
    | 0x014 => mailGo s (v % 256)
    | 0x020 => { s with bc := { b with rxErr := BitVec.ofNat 16 v } }
    | 0x022 => { s with bc := { b with reqCnt := BitVec.ofNat 16 v } }
    | 0x024 => { s with bc := { b with dupCnt := BitVec.ofNat 16 v } }
    | 0x028 => if v.testBit 0 then { s with bc := { b with windows := [] } } else s
    | _ => s

end Sys2Proof.Machine
end

