-- ==== Sys2Proof/Machine/Tw.lean ====
section
/-! DEFINITION. The two-wire target port: check byte, tag window, commands, alert and the TW_ registers (11). -/
namespace Sys2Proof.Machine

/-- The hub acknowledges its address: as on the chain, but not in SLEEP (11 R466), nor while it waits for a stop (R467). -/
def twAnswers (s : State) : Bool := linksAnswer s && s.pwr.st != .sleep && !s.tw.stopWait

def twRelease (s : State) : State := { s with tw := { s.tw with alert := false } }

/-- TWSTAT (11 R471) with the given DUP, FRESH, PENDING, POISON and ERR. -/
def twstat (s : State) (dup fresh pend pois err : Bool) : Byte :=
  BitVec.ofNat 8 (b2n dup + b2n fresh * 2 + b2n pend * 4 + b2n pois * 8 + b2n (twMasked s != 0) * 16 + b2n s.integ.safe * 32 +
    b2n err * 64)

/-- The address byte of a write, a read. -/
def twAddrW (s : State) : Byte := BitVec.ofNat 8 (2 * (0x40 + s.tw.addr.toNat))
def twAddrR (s : State) : Byte := BitVec.ofNat 8 (2 * (0x40 + s.tw.addr.toNat) + 1)

def twFlag (s : State) (b : Nat) : State := { s with tw := { s.tw with stat := setBitTo s.tw.stat b true } }
/-- A failure that LAST_ERR records (11 R485). -/
def twFail (s : State) (cmd : Byte) (code detail : Nat) : State :=
  { s with tw := { s.tw with lastErr := (cmd, BitVec.ofNat 8 code, BitVec.ofNat 16 detail) } }
/-- Commands executed, wrapping; firmware's value stands (00 R23). -/
def twCount (s : State) : State := if s.fwWrote 19 0x022 then s else { s with tw := { s.tw with cmdCnt := s.tw.cmdCnt + 1 } }
def twAck (s : State) (b : Bool) : State := { s with tw := { s.tw with acked := b } }

/-! ## Responses (11 R470, R471, R485) -/

/-- The length of a fixed response, none for a counted one (11 R474). -/
def twFixed (cmd : Nat) : Option Nat :=
  match cmd with
  | 0x01 => some 4
  | 0x03 => some 22
  | 0x06 => some 9
  | 0x21 => some 5
  | _ => none

/-- TWSTAT and the data of a result. -/
def twBody (s : State) (fresh : Bool) : LinkRes → List Byte
  | .ok bs p => twstat s false fresh false p false :: bs
  | .err c d => twstat s false fresh false false true :: (beBytes c 1 ++ beBytes d 2)

/-- The response of a read: COUNT or padding, and the check byte over the whole transaction. -/
def twRespond (s : State) (cmd : Nat) (args body : List Byte) : State :=
  let r := match twFixed cmd with
    | some n => body ++ List.replicate (n - body.length) 0xFF
    | none => beBytes body.length 1 ++ body
  { s with tw := { s.tw with resp := r ++ [crc8 ([twAddrW s, BitVec.ofNat 8 cmd] ++ args ++ [twAddrR s] ++ r)], reading := none } }

/-- Byte `i` that the host reads of the response; past the end, and past the check byte, 0xFF (11 R470). -/
def twReadByte (s : State) (i : Nat) : Byte := s.tw.resp.getD i 0xFF

/-- Served before the image load completes, in SAFE state and in RETURNED (11 R474). -/
def twSafeCmds : List Nat := [0x01, 0x02, 0x0A, 0x20, 0x21]
def twServed (s : State) (cmd : Nat) : Bool := !linkLimited s || twSafeCmds.any (fun c => c == cmd)

/-- A command executed, or NOT_NOW. -/
def twRun (s : State) (cmd : Nat) (run : State → LinkRes × State) : LinkRes × State :=
  let s := twCount s
  if twServed s cmd then run s else (.err 4 (linkState s), s)

/-- A read whose `args` are the argument bytes received, `n` of which it takes (11 R468, R469, R477, R485). -/
def twRead (s : State) (cmd n : Nat) (args : List Byte) (go : State → State) : State :=
  if !twAnswers s then twAck s false
  else
    let s := twLatch s
    if args.length < n then twRespond (twFlag s 4) cmd args (twBody s false (.err 2 args.length))
    else if n < args.length then twFail (twFlag (twAck s false) 4) (BitVec.ofNat 8 cmd) 2 args.length
    else go (twAck s true)

/-- The commands that need a unit which runs from BUS_CLK (log 64). -/
def twBusCmds : List Nat := [0x03, 0x04, 0x05, 0x06, 0x07, 0x08, 0x09, 0x0A]

/-- A complete command with the bytes `got` after its CMD: while the PLL is unlocked, one that needs a stopped unit waits for
relock (13 R538). -/
def twWhen (s : State) (cmd : Nat) (got : List Byte) (go : State → State) : State :=
  if s.pwr.unlockAt.isSome && twBusCmds.any (fun c => c == cmd) && twServed s cmd then
    { s with tw := { s.tw with held := s.tw.held ++ [(cmd, got)] } }
  else go s

/-- An untagged read. -/
def twReadPlain (s : State) (cmd n : Nat) (args : List Byte) (run : State → LinkRes × State) : State :=
  twRead s cmd n args (fun s => twWhen s cmd args (fun s =>
    let r := twRun s cmd run
    twRespond r.2 cmd args (twBody s false r.1)))

/-- A read whose words pass port 7 (11 R486). -/
def twReadStore (s : State) (cmd n : Nat) (args : List Byte) (run : State → LinkRes × State) : State :=
  twRead s cmd n args (fun s => twWhen s cmd args (fun s =>
    let r := twRun s cmd run
    let t := twRespond r.2 cmd args (twBody s false r.1)
    match r.1 with
    | .ok _ _ => { t with tw := { t.tw with reading := some (BitVec.ofNat 8 cmd, args) } }
    | _ => t))

/-- A refusal or cut-off at port 7: the error REFUSED with no partial data (05 R236, 11 R486). -/
def twRefused (s : State) : State :=
  match s.tw.reading with
  | some (cmd, args) => twRespond s cmd.toNat args (twBody s false (.err 8 s.arb.block.toNat))
  | none => s

/-! ## Tags (11 R478) -/

def twEntry (s : State) (tag : Byte) : Option TagEntry := s.tw.window.find? (fun e => e.tag == tag)
/-- Change the entry of a tag. -/
def twSetEntry (s : State) (tag : Byte) (f : TagEntry → TagEntry) : State :=
  { s with tw := { s.tw with window := s.tw.window.map (fun e => if e.tag == tag then f e else e) } }

/-- What a tag meets. -/
inductive TagMeet where
  | zero
  | new (fresh : Bool)
  | same (e : TagEntry)
  | clash
  deriving DecidableEq, Repr

def twMeet (s : State) (cmd tag : Byte) (crc : Word) : TagMeet :=
  if tag = 0 then .zero
  else match twEntry s tag with
    | some e => if e.cmd = cmd ∧ e.crc = crc then .same e else .clash
    | none => .new (s.tw.window == [])

/-- A result is recorded under its tag; the window holds the last 32. -/
def twRecord (s : State) (tag cmd : Byte) (crc : Word) (res : List Byte) : State :=
  { s with tw := { s.tw with window := ({ tag := tag, cmd := cmd, crc := crc, res := res : TagEntry } :: s.tw.window).take 32 } }

/-- A repeat: the entry's DUP flag and the count. -/
def twDup (s : State) (tag : Byte) : State :=
  let s := twSetEntry s tag (fun e => { e with dup := true })
  { s with tw := { s.tw with dupCnt := bump s 19 0x024 s.tw.dupCnt 1 } }

def setDup (b : Bool) : List Byte → List Byte
  | t :: bs => ((t &&& 0xFE) ||| (if b then 1 else 0)) :: bs
  | [] => []

/-- STATUS, the tagged read (11 R474, R487). -/
def twStatusRead (s : State) (args : List Byte) : State :=
  twRead s 0x02 1 args (fun s =>
    let tag := nth 0 args 0
    let crc := crc16 [0x02]
    match twMeet s 0x02 tag crc with
    | .zero => twRespond s 0x02 args (twBody s (s.tw.window == []) (.err 16 0))
    | .clash => twRespond (twFlag s 2) 0x02 args (twBody s false (.err 17 tag.toNat))
    | .same e => twRespond (twDup s tag) 0x02 args (setDup true e.res)
    | .new fresh =>
      let body := twBody s fresh (.plain (statusBytes s (twNotice s)))
      let s := twRelease (twCount s)
      let s := { s with tw := { s.tw with resetSince := false, noticeFw := if s.fwWrote 19 0x008 then s.tw.noticeFw else 0 } }
      twRespond (twRecord s tag 0x02 crc body) 0x02 args body)

/-! ## Writes (11 R468, R476) -/

/-- The write ends without a check byte (11 R476): discarded while PEC_REQ is 1, else `t`. -/
def twNoPec (s : State) (cmd : Byte) (t : State) : State := if s.tw.pecReq then twFail s cmd 14 0 else t

/-- The check byte does not match (11 R476). -/
def twPecBad (s : State) (cmd : Byte) : State :=
  let s := twAck s false
  twFail (twFlag { s with tw := { s.tw with pecErr := bump s 19 0x020 s.tw.pecErr 1 } } 1) cmd 18 0

/-- The first `n` bytes received are the arguments, the next is the check byte: the write is taken, or discarded. -/
def twWrite (s : State) (cmd : Byte) (n : Nat) (got : List Byte) (go : State → List Byte → State) : State :=
  if !twAnswers s then twAck s false
  else
    let s := twLatch (twAck s true)
    let args := got.take n
    if got.length < n then twNoPec s cmd s
    else match got.drop n with
      | [] => twNoPec s cmd (go s args)
      | c :: more =>
        let right := c == crc8 ([twAddrW s, cmd] ++ args)
        let t := if right then s else twPecBad s cmd
        if more != [] then twFail (twFlag (twAck t false) 4) cmd 2 (got.length - 1)
        else if right then go s args else t

/-- A counted write: COUNT outside its range is not acknowledged (11 R477). -/
def twCounted (s : State) (cmd : Byte) (lo hi : Nat) (got : List Byte) (go : State → List Byte → State) : State :=
  match got with
  | [] => if twAnswers s then twNoPec (twLatch (twAck s true)) cmd (twLatch (twAck s true)) else twAck s false
  | c :: _ =>
    if twAnswers s && (decide (c.toNat < lo) || decide (hi < c.toNat)) then twFail (twFlag (twAck (twLatch s) false) 4) cmd 2 c.toNat
    else twWrite s cmd (c.toNat + 1) got go

/-- A failed write is kept for LAST_ERR. -/
def twNote (s : State) (cmd : Byte) : LinkRes → State
  | .ok _ _ => s
  | .err c d => twFail s cmd c d

/-- A tagged write with `data`, the arguments but TAG and COUNT: executed once, and recorded (11 R478, R485). -/
def twTagged (s : State) (cmd tag : Byte) (data : List Byte) (run : State → LinkRes × State) : State :=
  let crc := crc16 (cmd :: data)
  match twMeet s cmd tag crc with
  | .zero => twFail s cmd 16 0
  | .clash => twFail (twFlag s 2) cmd 17 tag.toNat
  | .same _ => twDup s tag
  | .new fresh =>
    let r := twRun s cmd.toNat run
    twRecord (twNote r.2 cmd r.1) tag cmd crc (twBody s fresh r.1)

/-- STREAM_ACK. -/
def twStreamAckWrite (s : State) (got : List Byte) : State :=
  twWrite s 0x05 5 got (fun s args => twWhen s 0x05 got (fun s =>
    let r := twRun s 0x05 (fun s => streamAck s args)
    twNote r.2 0x05 r.1))

/-- MAIL_PUT for firmware (11 R479): busy, or taken. -/
def twMailTake (tag : Byte) (data : List Byte) (s : State) : LinkRes × State :=
  match s.tw.mail with
  | some t => (.err 11 t.toNat, twFlag s 5)
  | none =>
    let len : Word := BitVec.ofNat 16 (tag.toNat * 256 + data.length)
    (.plain [], { s with tw := { s.tw with mailRx := mailWords data, mailRxLen := len, mail := some tag, stat := s.tw.stat ||| 1 } })

/-- A stored result of a MAIL_PUT. -/
def twMailRes (s : State) (e : TagEntry) (pend err : Bool) (bs : List Byte) : TagEntry :=
  { e with res := twstat s false (bitAt (nth 0 e.res 0) 1) pend false err :: bs }

/-- The entry's stored result carries PENDING: only the pending MAIL_PUT's does. -/
def twPends (e : TagEntry) : Bool := bitAt (nth 0 e.res 0) 2

/-- The stored result of the pending MAIL_PUT, if its entry is still in the window. -/
def twSetResult (s : State) (err : Bool) (bs : List Byte) : State :=
  { s with tw := { s.tw with window := s.tw.window.map (fun e => if twPends e then twMailRes s e false err bs else e) } }

def twMailPut (s : State) (got : List Byte) : State :=
  twCounted s 0x09 2 240 got (fun s args => twWhen s 0x09 got (fun s =>
    let tag := nth 0 args 1
    let was := s.tw.mail
    let s := twTagged s 0x09 tag (args.drop 2) (twMailTake tag (args.drop 2))
    if was == none && s.tw.mail == some tag then twSetEntry s tag (fun e => twMailRes s e true false []) else s))

/-- A write of TW_MAIL_GO. -/
def twMailPost (s : State) (n : Nat) : State :=
  match s.tw.mail with
  | none => s
  | some _ =>
    let s := twSetResult s false (mailBytes s.tw.mailTx (min 237 n))
    { s with tw := { s.tw with mail := none } }

/-- A reset abandons the pending MAIL_PUT. -/
def twMailLost (s : State) : State :=
  match s.tw.mail with
  | none => s
  | some _ =>
    let s := twSetResult s true [12, 0, 0]
    { s with tw := { s.tw with mail := none } }

def twImgWriteW (s : State) (got : List Byte) : State :=
  twCounted s 0x0B 5 132 got (fun s args =>
    twTagged s 0x0B (nth 0 args 1) (args.drop 2) (fun s => imgWriteLink s .twire (args.drop 2)))

/-- RESET with its key; `reset` performs it (11 R482). -/
def twResetW (s : State) (got : List Byte) (reset : State → State) : State :=
  twWrite s 0x0F 3 got (fun s args =>
    let tag := nth 0 args 0
    let right := args.drop 1 == [0xC3, 0x3C]
    let go := right && (match twMeet s 0x0F tag (crc16 (0x0F :: args.drop 1)) with | .new _ => true | _ => false) && twServed s 0x0F
    let s := twTagged s 0x0F tag (args.drop 1) (fun s => (if right then .plain [] else .err 10 0, s))
    if go then reset s else s)

/-! ## Results, alert, protocol errors (11 R467, R478, R485, R488-R490) -/

/-- RESULT: the stored result after TAG and CMD, or NO_TAG. -/
def twResultRead (s : State) (args : List Byte) : State :=
  twRead s 0x20 1 args (fun s =>
    let s := twCount s
    let tag := nth 0 args 0
    twRespond s 0x20 args (match twEntry s tag with
      | some e => (match setDup e.dup e.res with | t :: bs => t :: e.tag :: e.cmd :: bs | [] => [])
      | none => twBody s false (.err 15 tag.toNat)))

/-- A read at the alert response address (11 R489, R490). -/
def twAlertResponse (s : State) (others : List Nat) (done : Bool) : State :=
  let s := twLatch s
  let me := 0x40 + s.tw.addr.toNat
  if twAnswers s && s.tw.alert && others.all (fun o => decide (me ≤ o)) && done then
    let b : Byte := BitVec.ofNat 8 (2 * me)
    twRelease { s with tw := { s.tw with resp := [b, crc8 [0x19, b]] } }
  else s

/-- A byte that is not acknowledged, or a repeated start too early. -/
def twProto (s : State) (e : TwProto) : State :=
  if !twAnswers s then s
  else
    let s := twFlag (twLatch s) 4
    match e with
    | .unknownCmd c => twFail (twAck s false) c 1 0
    | .badCount c n => twFail (twAck s false) c 2 n.toNat
    | .extraByte c n => twFail (twAck s false) c 2 n
    | .shortArgs c args => twRespond s c.toNat args (twBody s false (.err 2 args.length))

/-- TW_SCL has been low for more than 25 ms: the transaction is abandoned; a write that waits for relock has ended. -/
def twTimeout (s : State) : State :=
  if !twAnswers s then s
  else
    let s := twFlag s 3
    { s with tw := { s.tw with timeoutCnt := bump s 19 0x026 s.tw.timeoutCnt 1, stopWait := true,
                               held := s.tw.held.filter (fun x => x.1 == 0x05 || x.1 == 0x09) } }

/-! ## Commands that wait for relock (13 R538) -/

/-- A command that needs a unit which runs from BUS_CLK, with the bytes that follow its CMD. -/
def twDo (s : State) (cmd : Nat) (got : List Byte) : State :=
  match cmd with
  | 0x03 => twReadPlain s 0x03 1 got (fun s => streamStat s (byteAt got 0))
  | 0x04 => twReadStore s 0x04 6 got (fun s => streamRead s 7 got)
  | 0x05 => twStreamAckWrite s got
  | 0x06 => twReadPlain s 0x06 0 got (fun s => (.plain (classBytes s), s))
  | 0x07 => twReadPlain s 0x07 3 got (fun s => (outputRead s got, s))
  | 0x08 => twReadPlain s 0x08 2 got (fun s => (sensRead s got, s))
  | 0x09 => twMailPut s got
  | 0x0A => twReadStore s 0x0A 4 got (fun s => locketRead s 7 got)
  | _ => s

/-- At relock the commands that wait are executed in turn. -/
def twHeldRun (s : State) : State :=
  s.tw.held.foldl (fun s x => twDo s x.1 x.2) { s with tw := { s.tw with held := [] } }

/-! ## Registers (11 R492) -/

def twRegRead (s : State) (off : Nat) : Nat :=
  let t := s.tw
  if 0x100 ≤ off ∧ off < 0x1F0 then (tget 0 t.mailRx ((off - 0x100) / 2)).toNat
  else if 0x200 ≤ off ∧ off < 0x2EE then (tget 0 t.mailTx ((off - 0x200) / 2)).toNat
  else match off with
    | 0x000 => 0x40 + t.addr.toNat
    | 0x002 => b2n t.pecReq
    | 0x004 => t.stat.toNat + b2n (twAlertOn s) * 256 + b2n t.mail.isSome * 512
    | 0x006 => t.ie.toNat
    | 0x008 => t.noticeFw.toNat
    | 0x00A => twNotice s
    | 0x00C => t.alertMask.toNat
    | 0x010 => t.mailRxLen.toNat
    | 0x020 => t.pecErr.toNat
    | 0x022 => t.cmdCnt.toNat
    | 0x024 => t.dupCnt.toNat
    | 0x026 => t.timeoutCnt.toNat
    | _ => 0

def twRegWrite (s : State) (off v : Nat) : State :=
  let t := s.tw
  if 0x200 ≤ off ∧ off < 0x2EE then { s with tw := { t with mailTx := tput 0 t.mailTx ((off - 0x200) / 2) (BitVec.ofNat 16 v) } }
  else match off with
    | 0x002 => { s with tw := { t with pecReq := v.testBit 0 } }
    | 0x004 => { s with tw := { t with stat := w1c t.stat v } }
    | 0x006 => { s with tw := { t with ie := BitVec.ofNat 6 v } }
    | 0x008 => { s with tw := { t with noticeFw := BitVec.ofNat 8 v } }
    | 0x00C => { s with tw := { t with alertMask := BitVec.ofNat 16 v } }
    | 0x00E => if v.testBit 0 then twRelease s else s
    | 0x014 => twMailPost s (v % 256)
    | 0x020 => { s with tw := { t with pecErr := BitVec.ofNat 16 v } }
    | 0x022 => { s with tw := { t with cmdCnt := BitVec.ofNat 16 v } }
    | 0x024 => { s with tw := { t with dupCnt := BitVec.ofNat 16 v } }
    | 0x026 => { s with tw := { t with timeoutCnt := BitVec.ofNat 16 v } }
    | 0x028 => if v.testBit 0 then { s with tw := { t with window := [] } } else s
    | _ => s

end Sys2Proof.Machine
end

