-- ==== Sys2Proof/Machine/Kp.lean ====
section
/-! DEFINITION. The keepers' side of the hub: readiness for power states, watchdogs, store buffers, release, the keeper-alone
reset, semaphores, doorbells and the KP_ registers (08 R342-R360, R384, R385; 13 R546). -/
namespace Sys2Proof.Machine

/-! ## Who may act -/

/-- A reset of keeper `k` has been caused and not yet performed (08 R350; 14 R592 for K0). -/
def keeperDoomed (s : State) (k : Nat) : Bool := (s.keeper k).resetDue || (k == 0 && s.integ.seqDue)

/-- The keeper executes: present, released, clocked, not halted and not being reset. -/
def keeperRuns (s : State) (k : Nat) : Bool :=
  decide (k < nKeepers s) && keepersClocked s && !s.rst.pending && !s.pwr.entering && (s.keeper k).run && !(s.keeper k).dbgHalt &&
  !keeperDoomed s k

/-- The keeper makes register accesses of its own: it runs and is not stalled in WFI or in a claim read (08 R373). -/
def keeperActs (s : State) (k : Nat) : Bool :=
  keeperRuns s k && !(s.keeper k).wfi && !(List.range 4).any (fun b => (s.bank b).stalled == some (keeperFin k))

/-! ## Readiness (13 R546, R547) -/

/-- A keeper is ready: not released, or stalled in WFI with no interrupt pending that would end the stall. -/
def keeperReady (s : State) (k : Nat) : Bool := !(s.keeper k).run || ((s.keeper k).wfi && !wakes s k)
def allReady (s : State) : Bool := (List.range (nKeepers s)).all (keeperReady s)

/-- With SLEEP requested, the last keeper's readiness sets ENTERING (13 R549); the watch senses from then on. -/
def pwrCheck (s : State) : State :=
  if s.pwr.st = .run ∧ s.pwr.req = 2 ∧ s.pwr.entering = false ∧ allReady s = true then
    { watchTakes s with pwr := { s.pwr with entering := true } }
  else s

/-- A write of PWR_REQ (13 R546, R547, R565). In SAFE state, and so in RETURNED, the hub stays in RUN (15 R627). -/
def pwrReqWrite (s : State) (v : Nat) : State :=
  let r : BitVec 2 := if v % 4 = 3 then 0 else BitVec.ofNat 2 v
  if s.pwr.st != .run || s.integ.safe || s.pwr.entering || (s.pwr.req != 0 && allReady s) || r == s.pwr.req then s
  else pwrCheck { s with pwr := { s.pwr with req := r, reqAt := s.now } }

/-! ## Watchdogs (08 R357-R360) -/

/-- 976.5625 µs in BUS_CLK cycles. -/
def wdtUnit : Nat := 96000

/-- The watchdog of a keeper counts. -/
def wdtActive (s : State) (k : Nat) : Bool :=
  let kp := s.keeper k
  kp.run && kp.wdtEn && (!kp.dbgHalt || kp.wdtDbgRun) && s.pwr.st == .run

/-- Cycles counted in the present stage. -/
def wdtCount (s : State) (k : Nat) : Nat :=
  let kp := s.keeper k
  kp.wdtAcc + (match kp.wdtFrom with | some t => s.now - t | none => 0)

def wdtLimit (kp : Keeper) : Nat := wdtUnit * max 1 kp.wdtTimeout.toNat

/-- The count is settled after a change of what it counts by. -/
def wdtSync (s : State) (k : Nat) : State :=
  s.setKeeper k { s.keeper k with wdtAcc := wdtCount s k, wdtFrom := if wdtActive s k then some s.now else none }
def wdtSyncAll (s : State) : State := (List.range 4).foldl wdtSync s

/-- The count starts afresh in a stage. -/
def wdtStart (s : State) (k : Nat) (stage : Bool) : State :=
  s.setKeeper k { s.keeper k with wdtAcc := 0, wdtStage := stage, wdtFrom := if wdtActive s k then some s.now else none }

/-- TIMEOUT units have passed in the present stage. -/
def wdtOver (s : State) (k : Nat) : Bool := decide (k < nKeepers s) && wdtActive s k && decide (wdtLimit (s.keeper k) ≤ wdtCount s k)

/-- Stage two (08 R358). -/
def wdtWarns (s : State) (k : Nat) : State :=
  if wdtOver s k && !(s.keeper k).wdtStage then
    let t := wdtStart s k true
    t.setKeeper k { t.keeper k with wdtWarn := true }
  else s

/-- A reset of keeper `k` alone is caused; K0's is the recovery sequencer's (14 R592). -/
def causeReset (s : State) (k : Nat) : State :=
  if k = 0 then { s with integ := { s.integ with seqDue := true } } else s.setKeeper k { s.keeper k with resetDue := true }

/-- The watchdog expires (08 R358). -/
def wdtExpires (s : State) (k : Nat) : State :=
  if wdtOver s k && (s.keeper k).wdtStage && !keeperDoomed s k then
    causeReset (s.setKeeper k { s.keeper k with rstWdt := true }) k
  else s

/-- A write of KP_WDT_KICK (08 R359). -/
def wdtKickW (s : State) (k v : Nat) : State :=
  if v = 0x4B1D then wdtStart s k false else s.setKeeper k { s.keeper k with badKick := true }

/-- A write of KP_WDT_CFG (08 R360, R384). -/
def wdtCfgW (s : State) (k v : Nat) : State :=
  let kp := s.keeper k
  wdtSync (s.setKeeper k { kp with wdtEn := kp.wdtEn || v.testBit 15, wdtDbgRun := v.testBit 14, wdtTimeout := BitVec.ofNat 12 v }) k

/-! ## Store buffers (08 R345, R346) -/

/-- The oldest entry drains to working RAM. -/
def drainOne (s : State) (k : Nat) : State :=
  match (s.keeper k).sbuf with
  | [] => s
  | x :: rest => putBytes .wram (s.setKeeper k { s.keeper k with sbuf := rest }) x.addr x.bytes

def drainSome (s : State) (k : Nat) : Nat → State
  | 0 => s
  | n + 1 => drainSome (drainOne s k) k n

/-- Every entry drains. -/
def drainAll (s : State) (k : Nat) : State := drainSome s k (s.keeper k).sbuf.length

/-- At a reset all but the last `left` entries drain and those are discarded (08 R350, 13 R560): how many, and the state. -/
def drainReset (s : State) (k left : Nat) : Nat × State :=
  let n := (s.keeper k).sbuf.length
  let d := min left n
  let s := drainSome s k (n - d)
  (d, s.setKeeper k { s.keeper k with sbuf := [] })

/-! ## Release and the keeper-alone reset (08 R342, R343, R350, R351) -/

/-- The entry address of a keeper. -/
def entryOf (s : State) (k : Nat) : W32 := tget 0 s.img.hdr.entry k

/-- A keeper leaves reset at its entry address. -/
def keeperStart (s : State) (k : Nat) : State :=
  wdtStart (s.setKeeper k { s.keeper k with run := true, pc := entryOf s k }) k false

/-- A keeper as a reset leaves it: what a keeper-alone reset keeps is kept (08 R351). -/
def keeperCleared (kp : Keeper) (discard : Nat) : Keeper :=
  { rstWdt := kp.rstWdt, rstDbl := kp.rstDbl, rstCmd := kp.rstCmd, discard := BitVec.ofNat 8 (min 255 discard),
    wdtEn := kp.wdtEn, wdtDbgRun := kp.wdtDbgRun, wdtTimeout := kp.wdtTimeout, stale := kp.stale,
    ssDsel := kp.ssDsel, ssRsel := kp.ssRsel, ssPsel := kp.ssPsel, elogIdx := kp.elogIdx, allocRes := kp.allocRes,
    allocNext := kp.allocNext, ceIsel := kp.ceIsel }

/-- The index of a requester among the captures and held parts of wide values. -/
def reqIndex : Req → Nat
  | .keeper k => k.val
  | .chain => 4
  | .twire => 5
  | .loader => 6

/-- The key of a requester's capture or held part at an address. -/
def wideKey (r addr : Nat) : Nat := r * 2 ^ 20 + addr % 2 ^ 20

/-- A requester's captures are lost (00 R26). -/
def dropCaptures (s : State) (r : Nat) : State :=
  { s with wideCap := tclear s.wideCap (r * 2 ^ 20) (2 ^ 20), wideHold := tclear s.wideHold (r * 2 ^ 20) (2 ^ 20) }

/-- Semaphores held by keeper `k` are released. -/
def freeSems (s : State) (k : Nat) : State :=
  { s with sems := (List.range 16).foldl (fun t n => if tget none t n = some (keeperFin k) then tput none t n none else t) s.sems }

/-- The claim read of bank `b` by keeper `k` completes (08 R367, R373): the ID is the word that it returns. -/
def claimReturns (s : State) (k b : Nat) : State :=
  let r := claimNow (s.setBank b { s.bank b with stalled := none }) b
  { r.2 with rdata := tput 0 r.2.rdata k (BitVec.ofNat 16 r.1) }

/-- A claim read of keeper `k` stalls. -/
def claimInStall (s : State) (k : Nat) : Bool :=
  (List.range 4).any (fun b => (s.bank b).stalled == some (keeperFin k) && claimStalls s b)

/-- A claim read of keeper `k` that stalled completes before its reset (08 R350 step 1). -/
def unstall (s : State) (k : Nat) : State :=
  (List.range 4).foldl (fun s b => if (s.bank b).stalled = some (keeperFin k) then claimReturns s k b else s) s

/-- Every other present keeper sees PEER_RST. -/
def peersTold (s : State) (k : Nat) : State :=
  (List.range (nKeepers s)).foldl (fun s j => if j = k then s else s.setKeeper j { s.keeper j with peerRst := true }) s

/-- The keeper-alone reset (08 R350, R351): `left` entries of the store buffer remain after 128 cycles. -/
def keeperReset (s : State) (k left : Nat) : State :=
  let d := drainReset (unstall s k) k left
  let s := freeSems d.2 k
  let s := s.setBank k { s.bank k with stack := [] }
  let s := dropCaptures (peersTold s k) k
  let s := s.setKeeper k (keeperCleared (s.keeper k) d.1)
  let s := if k = 0 then { s with integ := { s.integ with seqDue := false } } else s
  pwrCheck (if k = 0 ∨ bitAt s.release k then keeperStart s k else wdtStart s k false)

/-- The reset of keeper `k` that is due; it waits for a claim read of the keeper that a freeze stalls (08 R350 step 1). -/
def aloneReset (s : State) (k left : Nat) : State :=
  if k != 0 && (s.keeper k).resetDue && !claimInStall s k then keeperReset s k left else s

/-- The recovery sequencer resets K0 (14 R592, R593). -/
def seqReset (s : State) (left : Nat) : State :=
  if !s.integ.seqDue || claimInStall s 0 then s
  else
    let s := keeperReset s 0 left
    { s with integ := { s.integ with k0Bad := true, lkFlt := s.integ.lkFlt ||| 8, k0RstCnt := bump s 21 0x022 s.integ.k0RstCnt 1 } }

/-- A keeper's write of KP_RELEASE for keeper `n` (08 R343, R385). In SAFE state the keepers stay in reset (14 R575). -/
def releaseBit (s : State) (v n : Nat) : State :=
  let was := bitAt s.release n
  let on := v.testBit n
  if nKeepers s ≤ n || was == on || s.integ.safe then s
  else
    let s := { s with release := setBitTo s.release n on }
    if on then (if (s.keeper n).resetDue then s else keeperStart s n)
    else causeReset (s.setKeeper n { s.keeper n with rstCmd := true }) n
def releaseWrite (s : State) (v : Nat) : State := [1, 2, 3].foldl (fun s n => releaseBit s v n) s

/-! ## Doorbells and semaphores (08 R355, R356) -/

def ringBells (s : State) (k v : Nat) : State :=
  (List.range (nKeepers s)).foldl (fun s n =>
    if v.testBit n then s.setBank n { s.bank n with bells := setBitTo (s.bank n).bells k true } else s) s

def semOwner (s : State) (n : Nat) : Option (Fin 4) := tget none s.sems n
def semWord (s : State) (n : Nat) : Nat := match semOwner s n with | some k => 32768 + k.val | none => 0

/-- A keeper's read of a semaphore: a free one is acquired. -/
def semTake (s : State) (k n : Nat) : State :=
  match semOwner s n with
  | some _ => s
  | none => { s with sems := tput none s.sems n (some (keeperFin k)) }

/-- A write of 0 by the owner frees it. -/
def semPut (s : State) (k n v : Nat) : State :=
  if v = 0 ∧ semOwner s n = some (keeperFin k) then { s with sems := tput none s.sems n none } else s

/-! ## Traps (08 R348, R349) -/

/-- A trap entry of keeper `k` (RISC-V machine level; 08 R340): where it saves the pc, its cause and value, and where it goes. -/
def trapEnter (s : State) (k : Nat) (pc cause tval : W32) (intr : Bool) : State :=
  let kp := s.keeper k
  let base := kp.mtvec &&& 0xFFFFFFFC#32
  let vec := if intr && kp.mtvec &&& 3 == 1 then base + 4 * (cause &&& 0x7FFFFFFF#32) else base
  s.setKeeper k { kp with mepc := pc, mcause := cause, mtval := tval, mstatusMpie := kp.mstatusMie, mstatusMie := false,
                          pc := vec, inTrap := kp.inTrap || !intr, wfi := false }

/-- A synchronous exception: a trap, or a double fault (08 R348, R349). -/
def takeException (s : State) (k : Nat) (cause tval : Nat) : State :=
  let kp := s.keeper k
  if kp.inTrap then causeReset (s.setKeeper k { kp with rstDbl := true }) k
  else trapEnter s k kp.pc (BitVec.ofNat 32 cause) (BitVec.ofNat 32 tval) false

/-- The return from a trap: mret. -/
def trapReturn (s : State) (k : Nat) : State :=
  let kp := s.keeper k
  s.setKeeper k { kp with pc := kp.mepc, mstatusMie := kp.mstatusMpie, mstatusMpie := true, inTrap := false }

/-! ## Debug halt (08 R357, R384) -/

def dbgSet (s : State) (k : Nat) (b : Bool) : State := wdtSync (s.setKeeper k { s.keeper k with dbgHalt := b }) k

/-! ## Registers (08 R384, R385) -/

def kpStatus (kp : Keeper) : Nat :=
  b2n kp.absentHit + b2n kp.wdtWarn * 2 + b2n kp.peerRst * 4 + b2n kp.rstWdt * 8 + b2n kp.rstDbl * 16 + b2n kp.rstCmd * 32 +
  b2n kp.badKick * 64 + b2n kp.inTrap * 256 + b2n kp.dbgHalt * 512

/-- The registers of keeper `k` (08 R384). -/
def kpOwnRead (s : State) (k off : Nat) : Nat :=
  let kp := s.keeper k
  match off with
    | 0x000 => k
    | 0x002 => kpStatus kp
    | 0x006 => kp.discard.toNat
    | 0x008 => b2n kp.wdtEn * 32768 + b2n kp.wdtDbgRun * 16384 + kp.wdtTimeout.toNat
    | 0x00C => b2n kp.wdtStage * 4096 + min 4095 (wdtCount s k / wdtUnit)
    | 0x010 => kp.mtimecmp.toNat
    | _ => 0

/-- The view of a keeper's register at 0x100 + 0x40 × n: keeper and offset of the register (08, the KP_ block). -/
def kpView (off : Nat) : Option (Nat × Nat) :=
  let o := (off - 0x100) % 0x40
  if 0x100 ≤ off ∧ off < 0x200 ∧ (o < 0x0E ∨ (0x10 ≤ o ∧ o < 0x1A)) then some ((off - 0x100) / 0x40, o) else none

/-- The views of absent keepers (01 R50). -/
def kpAbsent (s : State) (off : Nat) : Bool := match kpView off with | some (n, _) => decide (nKeepers s ≤ n) | none => false

/-- The KP_ block as keeper `k` reads it; a semaphore's acquisition is `semTake`. -/
def kpRead (s : State) (k off : Nat) : Nat :=
  if 0x240 ≤ off ∧ off < 0x260 then semWord s ((off - 0x240) / 2)
  else match kpView off with
    | some (n, o) => kpOwnRead s n o
    | none =>
      match off with
      | 0x200 => s.release.toNat
      | 0x210 => mtime s
      | _ => if off < 0x20 then kpOwnRead s k off else 0

/-- A write by keeper `k`; `own` says that a keeper writes, not the loader in K0's place. -/
def kpWrite (s : State) (k : Nat) (own : Bool) (off v : Nat) : State :=
  let kp := s.keeper k
  if 0x240 ≤ off ∧ off < 0x260 then semPut s k ((off - 0x240) / 2) v
  else match off with
    | 0x002 => s.setKeeper k { kp with absentHit := w1cBit kp.absentHit v 0, wdtWarn := w1cBit kp.wdtWarn v 1,
                                       peerRst := w1cBit kp.peerRst v 2, rstWdt := w1cBit kp.rstWdt v 3,
                                       rstDbl := w1cBit kp.rstDbl v 4, rstCmd := w1cBit kp.rstCmd v 5,
                                       badKick := w1cBit kp.badKick v 6 }
    | 0x004 => if v.testBit 0 then s.setKeeper k { kp with inTrap := false } else s
    | 0x008 => wdtCfgW s k v
    | 0x00A => wdtKickW s k v
    | 0x010 => s.setKeeper k { kp with mtimecmp := BitVec.ofNat 64 v }
    | 0x018 => ringBells s k v
    | 0x200 => if own then releaseWrite s v else s
    | _ => s

def kpWide (off : Nat) : Option (Nat × Nat) :=
  if 0x010 ≤ off ∧ off < 0x018 ∧ off % 2 = 0 then some (0x010, 4)
  else if 0x210 ≤ off ∧ off < 0x218 ∧ off % 2 = 0 then some (0x210, 4)
  else if 0x100 ≤ off ∧ off < 0x200 ∧ 0x10 ≤ off % 0x40 ∧ off % 0x40 < 0x18 ∧ off % 2 = 0 then some (off / 0x40 * 0x40 + 0x10, 4)
  else none

end Sys2Proof.Machine
end

