-- ==== Sys2Proof/Machine/Inst.lean ====
section
/-! DEFINITION. The instants of the front end and the decimation chain: swap, CIC output, filter output and delivery, with
what falls due at each (02 R71, R83-R102; 03 R112-R147; 04 R186, R187; 06 R254; 07 R290; 14 R586-R589). -/
namespace Sys2Proof.Machine

/-! ## Datapath slices (14 R586-R589) -/

/-- The pair is under a datapath slice. -/
def sliceOn (s : State) (p : Nat) : Bool := s.integ.dpSlice.isSome && s.integ.dpPair.toNat == p

/-- The pair's chain belongs to a slice at instant `t`: one in progress, or one that starts then (14 R587). -/
def sliceTakes (s : State) (p t : Nat) : Bool :=
  sliceOn s p || (s.integ.dpStart == some (BitVec.ofNat 8 p) && decide (s.fe.nextSwap ≤ t))

/-- The slice is over: its pair's chain is its own again. -/
def dpRelease (s : State) : State := { s with integ := { s.integ with dpSlice := none, dpStart := none } }

/-- The slice, started or about to start, ends without a comparison (14 R589); its pair restarts at the next swap instant, and
what was held back takes effect with that restart. -/
def dpAbandon (s : State) : State :=
  if s.integ.dpSlice.isNone then dpRelease s
  else
    let p := s.integ.dpPair.toNat
    let s := bistFlag s 5
    dpRelease (s.setPdc p { s.pdc p with restartReq := some 1 })

/-! ## Pair states at a swap instant -/

/-- A pod's pairs have changed state: its subscribers are activated once for the instant (07 R290). -/
def podOccurs (s : State) (pod e : Nat) : State :=
  if bitAt s.fe.podsChanged pod then s
  else pairStateOccur { s with fe := { s.fe with podsChanged := setBitTo s.fe.podsChanged pod true } } pod e

/-- A state decision carried out, with the activations that it brings. -/
def pairDecide (s : State) (p : Nat) : State :=
  if (s.pfe p).decide.isNone then s else podOccurs (feDecide s p) (p / 6) (s.fe.lastSwap % 2 ^ 52)

/-- Decisions that have not been commanded are carried out, in ascending pair order. -/
def decideAll (s : State) : State := (List.range (nPairs s)).foldl pairDecide s

/-- One pair at the swap instant `t`: its front end, the restart that an enable causes, and its pod's activations. -/
def swapPair (t : Nat) (cur : Nat → Option Nat) (s : State) (p : Nat) : State :=
  let was := (s.pfe p).st
  let pf := fePairSwap s t p (cur p)
  let s := s.setPfe p pf
  let s := if was == .off && pf.st != .off then s.setPdc p { s.pdc p with restartReq := some ((s.pdc p).restartReq.getD 0) } else s
  if (was == .off) != (pf.st == .off) then podOccurs s (p / 6) (t % 2 ^ 52) else s

/-- A restart that is asked for falls due at the swap instant `t` (03 R135). -/
def swapRestart (t : Nat) (s : State) (p : Nat) : State :=
  let pd := s.pdc p
  match pd.restartReq with
  | some r => if sliceOn s p then s else s.setPdc p { pd with restartReq := none, restartDue := some (t, r) }
  | none => s

/-- The front end takes its settings at the swap instant `t`: pairs, RUNNING, restarts (02 R101, 03 R135). -/
def swapFront (s : State) (t : Nat) (cur : Nat → Option Nat) : State :=
  let s := { s with fe := { s.fe with podsChanged := 0, lastSwap := t, nextSwap := t + 128 } }
  let s := (List.range (nPairs s)).foldl (swapPair t cur) s
  let s := { s with fe := { s.fe with running := s.fe.run } }
  (List.range (nPairs s)).foldl (swapRestart t) s

/-- The chain of one pair at the swap instant `t`: coarse value, halfband, block sums (03 R119, R122, R123). -/
def swapChain (t : Nat) (s : State) (p : Nat) : State :=
  if sliceOn s p then s.setPdc p { s.pdc p with coarseNow := none }
  else
    let r := dcSwap (s.pdc p) t
    let s := s.setPdc p r.1
    if r.2 then { s with dc := { s.dc with satStk := setBitTo s.dc.satStk p true } } else s

/-- A slice that was to start starts at the swap instant and takes the coarse value of that instant with it; one whose pair
is OFF ends (14 R586, R587, R589). -/
def swapSlice (s : State) (t : Nat) : State :=
  let s := match s.integ.dpStart with
    | some p => { s with integ := { s.integ with dpStart := none, dpSlice := some t, dpPair := p, dpAny := true } }.setPdc p.toNat
        { s.pdc p.toNat with coarseNow := none }
    | none => s
  if s.integ.dpSlice.isSome && (s.pfe s.integ.dpPair.toNat).st == .off then dpAbandon s else s

/-- What is due from earlier instants is carried out before the swap instant `t`. -/
def settleBefore (s : State) (t : Nat) : State := flushChanges (flushRestarts (rcFlush (decideAll s))) t

/-- FE_CLK has run through the whole measurement window that ends at period `t` (02 R74, 13 R538). -/
def clockedWindow (s : State) (t : Nat) : Bool := decide (s.fe.clkFrom + 112 ≤ t)

/-- The pairs' windows that end at period `t` have been measured whole: the front end was running, too (02 R83). -/
def windowWhole (s : State) (t : Nat) : Bool := s.fe.running && clockedWindow s t

/-- AVDD_EX, which the board presents at `v` mV, is measured over every window, whatever RUN and the enables are (02 R106). -/
def vexMeasure (s : State) (t v : Nat) : State :=
  { s with fe := { s.fe with avdd := v, vex := if clockedWindow s t then BitVec.ofNat 16 (min v 65535) else s.fe.vex } }

/-- A swap instant (02 R71). -/
def swapInstantAt (s : State) (m : SwapIn) : State :=
  if !feRuns s then s
  else
    let t := nextInstant s s.fe.nextSwap 128
    let s := settleBefore (passTo s t) t
    let whole := windowWhole s t
    let s := vexMeasure s t m.vex
    let s := linesSample s m.ilHigh
    let s := if nVouts s = 0 then s else voMeasure s m.ratioRef
    let s := (List.range (nPairs s)).foldl (swapChain t) s
    let s := swapFront s t (fun p => if whole then some (nth 0 m.current p) else none)
    let s := swapSlice s t
    let s := (List.range (nPods s)).foldl (fun s p => s.setPod p (podSwap (s.pod p))) s
    { s with dc := { s.dc with coarseDues := s.dc.coarseDues ++ [t] } }

/-- The front end starts at the next swap instant, which measures no pair (12 R518 step 8, 13 R555 step 4). -/
def feStart (s : State) : State :=
  let t := nextInstant s s.fe.nextSwap 128
  let s := settleBefore (passTo s t) t
  swapFront (vexMeasure s t s.fe.avdd) t (fun _ => none)

/-! ## CIC outputs, coarse deliveries, filter outputs, sample deliveries -/

/-- A CIC output instant with the 64 modulator bits of every pair (03 R116). -/
def cicOutputAt (s : State) (bits : List (BitVec 64)) : State :=
  if !feRuns s then s
  else
    let t := nextInstant s s.dc.nextCic 64
    let s := flushChanges (flushRestarts (passTo s t)) t
    let s := (List.range (nPairs s)).foldl (fun s p =>
      if sliceOn s p then s else s.setPdc p (dcCic (s.pdc p) t (fePositive s p (t - 64)) (nth 0 bits p))) s
    { s with dc := { s.dc with nextCic := t + 64 } }

/-- A pair's coarse value of instant `t` with its flags (03 R138, R139, R157). -/
def coarsePair (t : Nat) (s : State) (p : Nat) : State :=
  let pd := s.pdc p
  match pd.coarseNow with
  | some (t', v, _) =>
    if t' = t then
      let fl := flagByte (faultIn s p t 445) (s.pfe p).dch pd.markCoarse false
      s.setPdc p { pd with coarse := BitVec.ofInt 16 v, coarseNow := some (t, v, fl), markCoarse := false }
    else s
  | none => s

/-- The coarse values of the oldest swap instant are delivered 35 periods after it (03 R120, 04 R187, 06 R254). -/
def coarseDeliver (s : State) : State :=
  match s.dc.coarseDues with
  | [] => s
  | t :: rest =>
    if !feRuns s then s
    else
      let s := rcFlush (flushRestarts (decideAll (passTo s (t + 35))))
      let s := { s with dc := { s.dc with coarseDues := rest } }
      let s := (List.range (nPairs s)).foldl (coarsePair t) s
      let s := (List.range (nPods s)).foldl (fun s p => podInstant s t p) s
      coarseStreams s t

/-- An output instant of mode `m` (03 R124, R126). -/
def modeOutput (s : State) (m : Nat) : State :=
  if !feRuns s then s
  else
    let t := nextInstant s (tget 0 s.dc.nextOut m) (modePeriod m)
    let s := flushChanges (flushRestarts (decideAll (passTo s t))) (t + 1)
    let s := (List.range (nPairs s)).foldl (fun s p =>
      let r := if sliceTakes s p t then (s.pdc p, false) else dcOutput s p t m
      let s := s.setPdc p r.1
      if r.2 then { s with dc := { s.dc with satStk := setBitTo s.dc.satStk p true } } else s) s
    { s with dc := { s.dc with nextOut := tput 0 s.dc.nextOut m (t + modePeriod m), dues := s.dc.dues ++ [(t, m)] } }

/-- The output instant whose delivery comes first. -/
def firstDue (l : List (Nat × Nat)) : Option (Nat × Nat) :=
  l.foldl (fun a d => match a with
    | none => some d
    | some b => if d.1 + modeDelay d.2 < b.1 + modeDelay b.2 then some d else a) none

/-- One pair at a delivery: its sample, the end of its change. -/
def deliverPair (t m : Nat) (s : State) (p : Nat) : State :=
  let r := dcDeliver s p t m
  let s := s.setPdc p r.1
  let d := s.dc
  let d := if r.2.1 then { d with busy := setBitTo d.busy p false, doneStk := setBitTo d.doneStk p true } else d
  let d := if r.2.2 then { d with satStk := setBitTo d.satStk p true } else d
  { s with dc := d }

/-- The final samples of the output instant whose delivery comes first (03 R131, 04 R186). -/
def sampleDeliver (s : State) : State :=
  match firstDue s.dc.dues with
  | none => s
  | some (t, m) =>
    if !feRuns s then s
    else
      let s := flushRestarts (decideAll (passTo s (t + modeDelay m)))
      let s := { s with dc := { s.dc with dues := s.dc.dues.filter (fun d => !(d.1 == t && d.2 == m)) } }
      let s := (List.range (nPairs s)).foldl (deliverPair t m) s
      assembleSamples s t

end Sys2Proof.Machine
end

