-- ==== Sys2Proof/Machine/Charm.lean ====
section
/-! DEFINITION. The charm instructions: what each does on a lane, and the commands that execute them (07 R310-R324). -/
namespace Sys2Proof.Machine

/-- D from A; P(D) from P(A) (07 R305). -/
def alu1 (s : State) (l : Nat) (r : Run) (w : Nat) (f : Word → Word) : State :=
  putD s l r w (f (vreg s r (fA w))) (preg s r (fA w))
/-- D from A and B. -/
def alu2 (s : State) (l : Nat) (r : Run) (w : Nat) (f : Word → Word → Word) : State :=
  putD s l r w (f (vreg s r (fA w)) (vreg s r (fB w))) (preg s r (fA w) || preg s r (fB w))

/-- A step that consumes A (07 R306, R307). -/
def takeA (s : State) (l : Nat) (r : Run) (w : Nat) (go : Word → State) : State :=
  if preg s r (fA w) then poisonTaken s l r else go (vreg s r (fA w))

/-- EMA. -/
def emaValue (d a : Word) (k : Nat) : Word :=
  if k = 0 then a else BitVec.ofInt 16 (d.toInt + (a.toInt - d.toInt + 2 ^ (k - 1)) / 2 ^ k)
def emaStep (s : State) (l : Nat) (r : Run) (w : Nat) : State :=
  putD s l r w (emaValue (vreg s r (fD w)) (vreg s r (fA w)) (fld w 0 4)) (preg s r (fD w) || preg s r (fA w))

def setState (s : State) (r : Run) (v : Nat) : State :=
  s.setChm r.act.inst { s.chm r.act.inst with state := BitVec.ofNat 8 v }
def setTimer (s : State) (r : Run) (n : Nat) (v : Word) : State :=
  let c := s.chm r.act.inst
  s.setChm r.act.inst (if n = 0 then { c with t0 := v } else { c with t1 := v })

/-- CLASS: a pod out of range sets RANGE, an absent one ABSENT (07 R316). -/
def classStep (s : State) (l : Nat) (r : Run) (w : Nat) : State :=
  let a := (vreg s r (fA w)).toNat
  if preg s r (fA w) || preg s r (fB w) then poisonTaken s l r
  else
    let s := if 32 ≤ a then instFlag s r.act.inst 4
      else if nPods s ≤ a then instFlag s r.act.inst 5
      else setClass s l a (vreg s r (fB w)).toNat
    goTo s l r (r.pc + 1)

/-- EMIT: an EVENT record for CE_EVSTREAM (07 R321, R323). -/
def emitStep (s : State) (l : Nat) (r : Run) (w : Nat) : State :=
  if preg s r (fA w) || preg s r (fB w) then poisonTaken s l r
  else
    let ws := eventRecord 2 (fld w 0 8) r.act.e r.act.inst.val (vreg s r (fA w)) (vreg s r (fB w))
    let s := if bitAt s.ce.evStream 8 then
        wqPut s { stream := streamFin (s.ce.evStream.toNat % 256), e := r.act.e, words := ws }
      else s
    goTo s l r (r.pc + 1)

/-- A MARK record (04 R184). -/
def markRecord (e inst : Nat) (v : Word) : List Word := recHead 6 false 7 e 0 ++ [BitVec.ofNat 16 inst, v]
/-- MARK (07 R322). -/
def markStep (s : State) (l : Nat) (r : Run) (w : Nat) : State :=
  takeA s l r w (fun a =>
    goTo (wqPut s { stream := streamFin (fld w 0 8), e := r.act.e, words := markRecord r.act.e r.act.inst.val a }) l r (r.pc + 1))

/-- SIG (07 R324). -/
def raiseSig (s : State) (r : Run) (n : Nat) : State :=
  { s with ce := { s.ce with sigStk := setBitTo s.ce.sigStk n true, sigInst := tput 0 s.ce.sigInst n (BitVec.ofNat 11 r.act.inst.val) } }

/-! ## The instructions (07 R313) -/

/-- HALT. -/
def opHalt (l : Nat) (s : State) (_ : Run) (_ : Nat) : State := endRun s l
/-- LI. -/
def opLi (l : Nat) (s : State) (r : Run) (w : Nat) : State := putD s l r w (BitVec.ofNat 16 (fI w)) false
/-- MOV. -/
def opMov (l : Nat) (s : State) (r : Run) (w : Nat) : State := putD s l r w (vreg s r (fA w)) (preg s r (fA w))
/-- ADD. -/
def opAdd (l : Nat) (s : State) (r : Run) (w : Nat) : State := alu2 s l r w (fun a b => sat16 (a.toInt + b.toInt))
/-- SUB. -/
def opSub (l : Nat) (s : State) (r : Run) (w : Nat) : State := alu2 s l r w (fun a b => sat16 (a.toInt - b.toInt))
/-- ADDI. -/
def opAddi (l : Nat) (s : State) (r : Run) (w : Nat) : State := alu1 s l r w (fun a => sat16 (a.toInt + (BitVec.ofNat 16 (fI w)).toInt))
/-- ABS. -/
def opAbs (l : Nat) (s : State) (r : Run) (w : Nat) : State := alu1 s l r w (fun a => sat16 (absInt a.toInt))
/-- MIN. -/
def opMin (l : Nat) (s : State) (r : Run) (w : Nat) : State := alu2 s l r w (fun a b => if b.toInt < a.toInt then b else a)
/-- MAX. -/
def opMax (l : Nat) (s : State) (r : Run) (w : Nat) : State := alu2 s l r w (fun a b => if a.toInt < b.toInt then b else a)
/-- MULQ. -/
def opMulq (l : Nat) (s : State) (r : Run) (w : Nat) : State := alu2 s l r w (fun a b => sat16 (roundDiv (a.toInt * b.toInt) 32768))
/-- SRA. -/
def opSra (l : Nat) (s : State) (r : Run) (w : Nat) : State := alu1 s l r w (fun a => a.sshiftRight (fld (fI w) 0 4))
/-- AND. -/
def opAnd (l : Nat) (s : State) (r : Run) (w : Nat) : State := alu2 s l r w (fun a b => a &&& b)
/-- OR. -/
def opOr (l : Nat) (s : State) (r : Run) (w : Nat) : State := alu2 s l r w (fun a b => a ||| b)
/-- ANDI. -/
def opAndi (l : Nat) (s : State) (r : Run) (w : Nat) : State := alu1 s l r w (fun a => a &&& BitVec.ofNat 16 (fI w))
/-- EMA. -/
def opEma (l : Nat) (s : State) (r : Run) (w : Nat) : State := emaStep s l r w
/-- CLRP. -/
def opClrp (l : Nat) (s : State) (r : Run) (w : Nat) : State := putD s l r w (vreg s r (fD w)) false
/-- LDR. -/
def opLdr (l : Nat) (s : State) (r : Run) (w : Nat) : State := putRec s l r w (some (fld w 0 11))
/-- LDS. -/
def opLds (l : Nat) (s : State) (r : Run) (w : Nat) : State := putRec s l r w (some (5 + fld w 0 11))
/-- LDSX. -/
def opLdsx (l : Nat) (s : State) (r : Run) (w : Nat) : State := takeA s l r w (fun a => putRec s l r w ((slotIndex a w).map (5 + ·)))
/-- LDF. -/
def opLdf (l : Nat) (s : State) (r : Run) (w : Nat) : State := putFlag s l r w (some (fld w 0 11))
/-- LDFX. -/
def opLdfx (l : Nat) (s : State) (r : Run) (w : Nat) : State := takeA s l r w (fun a => putFlag s l r w (slotIndex a w))
/-- LDC. -/
def opLdc (l : Nat) (s : State) (r : Run) (w : Nat) : State := putD s l r w (tget 0 (s.chm r.act.inst).c (fld w 0 2)) false
/-- LDQ. -/
def opLdq (l : Nat) (s : State) (r : Run) (w : Nat) : State := putD s l r w (quantity s r (fld w 0 4)) false
/-- LDP. -/
def opLdp (l : Nat) (s : State) (r : Run) (w : Nat) : State := putPod s l r w (pairWord s)
/-- LDK. -/
def opLdk (l : Nat) (s : State) (r : Run) (w : Nat) : State := putPod s l r w (fun p => BitVec.ofNat 16 (podClass s p))
/-- B. -/
def opB (l : Nat) (s : State) (r : Run) (w : Nat) : State := jumpIf s l r w true
/-- BEQ. -/
def opBeq (l : Nat) (s : State) (r : Run) (w : Nat) : State := branch s l r w true (vreg s r (fA w) == vreg s r (fB w))
/-- BNE. -/
def opBne (l : Nat) (s : State) (r : Run) (w : Nat) : State := branch s l r w true (vreg s r (fA w) != vreg s r (fB w))
/-- BLT. -/
def opBlt (l : Nat) (s : State) (r : Run) (w : Nat) : State := branch s l r w true (decide ((vreg s r (fA w)).toInt < (vreg s r (fB w)).toInt))
/-- BGE. -/
def opBge (l : Nat) (s : State) (r : Run) (w : Nat) : State := branch s l r w true (decide ((vreg s r (fB w)).toInt ≤ (vreg s r (fA w)).toInt))
/-- BZ. -/
def opBz (l : Nat) (s : State) (r : Run) (w : Nat) : State := branch s l r w false (vreg s r (fA w) == 0)
/-- BNZ. -/
def opBnz (l : Nat) (s : State) (r : Run) (w : Nat) : State := branch s l r w false (vreg s r (fA w) != 0)
/-- BLTZ. -/
def opBltz (l : Nat) (s : State) (r : Run) (w : Nat) : State := branch s l r w false (decide ((vreg s r (fA w)).toInt < 0))
/-- BBS. -/
def opBbs (l : Nat) (s : State) (r : Run) (w : Nat) : State := branch s l r w false (bitAt (vreg s r (fA w)) (fD w))
/-- BBC. -/
def opBbc (l : Nat) (s : State) (r : Run) (w : Nat) : State := branch s l r w false (!bitAt (vreg s r (fA w)) (fD w))
/-- BP. -/
def opBp (l : Nat) (s : State) (r : Run) (w : Nat) : State := jumpIf s l r w (preg s r (fA w))
/-- JCS. -/
def opJcs (l : Nat) (s : State) (r : Run) (w : Nat) : State := goTo s l r (fT w + r.act.cause)
/-- JST. -/
def opJst (l : Nat) (s : State) (r : Run) (w : Nat) : State := goTo s l r (fT w + (s.chm r.act.inst).state.toNat)
/-- SST. -/
def opSst (l : Nat) (s : State) (r : Run) (w : Nat) : State := goTo (setState s r (fI w)) l r (r.pc + 1)
/-- SSTV. -/
def opSstv (l : Nat) (s : State) (r : Run) (w : Nat) : State := takeA s l r w (fun a => goTo (setState s r a.toNat) l r (r.pc + 1))
/-- TSET. -/
def opTset (l : Nat) (s : State) (r : Run) (w : Nat) : State := takeA s l r w (fun a => goTo (setTimer s r (fD w % 2) a) l r (r.pc + 1))
/-- TSETI. -/
def opTseti (l : Nat) (s : State) (r : Run) (w : Nat) : State := goTo (setTimer s r (fD w % 2) (BitVec.ofNat 16 (fI w))) l r (r.pc + 1)
/-- CLASS. -/
def opCls (l : Nat) (s : State) (r : Run) (w : Nat) : State := classStep s l r w
/-- HOLD. -/
def opHold (l : Nat) (s : State) (r : Run) (w : Nat) : State :=
  outputOp s l r w (nLines s) 15 (fun n => n / 16 * 2) (fun s n v => lineSet s n (v != 0)) lineSafe linePois
/-- VOUT. -/
def opVout (l : Nat) (s : State) (r : Run) (w : Nat) : State :=
  outputOp s l r w (nVouts s) 16 (fun n => 0x100 + 0x10 * n) (fun s n v => voCodeSet s n v.toNat) voSafe voPois
/-- LOOP. -/
def opLoop (l : Nat) (s : State) (r : Run) (w : Nat) : State :=
  outputOp s l r w (nLoops s) 17 (fun n => 0x100 + 0x10 * n) (fun s n v => s.setLout n (loopCmd (s.lout n) v.toNat)) loopSafe loopPois
/-- EMIT. -/
def opEmit (l : Nat) (s : State) (r : Run) (w : Nat) : State := emitStep s l r w
/-- MARK. -/
def opMark (l : Nat) (s : State) (r : Run) (w : Nat) : State := markStep s l r w
/-- SIG. -/
def opSig (l : Nat) (s : State) (r : Run) (w : Nat) : State := goTo (raiseSig s r (fld w 0 3)) l r (r.pc + 1)

/-- What an OP does; an OP that is not in the table ends the activation (07 R311). -/
def opAny (o : Nat) : Nat → State → Run → Nat → State :=
  match o with
  | 0x00 => opHalt
  | 0x01 => opLi
  | 0x02 => opMov
  | 0x03 => opAdd
  | 0x04 => opSub
  | 0x05 => opAddi
  | 0x06 => opAbs
  | 0x07 => opMin
  | 0x08 => opMax
  | 0x09 => opMulq
  | 0x0A => opSra
  | 0x0B => opAnd
  | 0x0C => opOr
  | 0x0D => opAndi
  | 0x0E => opEma
  | 0x0F => opClrp
  | 0x10 => opLdr
  | 0x11 => opLds
  | 0x12 => opLdsx
  | 0x13 => opLdf
  | 0x14 => opLdfx
  | 0x15 => opLdc
  | 0x16 => opLdq
  | 0x17 => opLdp
  | 0x18 => opLdk
  | 0x20 => opB
  | 0x21 => opBeq
  | 0x22 => opBne
  | 0x23 => opBlt
  | 0x24 => opBge
  | 0x25 => opBz
  | 0x26 => opBnz
  | 0x27 => opBltz
  | 0x28 => opBbs
  | 0x29 => opBbc
  | 0x2A => opBp
  | 0x2B => opJcs
  | 0x2C => opJst
  | 0x30 => opSst
  | 0x31 => opSstv
  | 0x32 => opTset
  | 0x33 => opTseti
  | 0x38 => opCls
  | 0x39 => opHold
  | 0x3A => opVout
  | 0x3B => opLoop
  | 0x3C => opEmit
  | 0x3D => opMark
  | 0x3E => opSig
  | _ => fun l s r _ => endRun (instFlag s r.act.inst 3) l

/-- The next step of a lane, whatever its word. -/
def charmAny (s : State) (l : Nat) : State := charmStep s l (fun _ => true) (fun s r w => opAny (opOf w) l s r w)

/-- A lane runs to the end of its activation: at most 64 steps and the step limit (07 R298). -/
def charmRunOut (s : State) (l : Nat) : Nat → State
  | 0 => stepLimit s l
  | n + 1 => if (laneRun s l).isSome then charmRunOut (charmAny s l) l n else s

/-! ## The commands -/

/-- One step of OP `o` on lane `l`. -/
def charmOp (s : State) (l : Fin 2) (o : Nat) (f : Nat → State → Run → Nat → State) : Host.Outcome State Fault Refusal :=
  .next (onBus s (charmStep s l.val (fun x => x == o) (fun s r w => f l.val s r w)))

/-- HALT (07 R313). -/
def execHalt (lane : Fin 2) (s : State) : Host.Outcome State Fault Refusal := charmOp s lane 0x00 opHalt
/-- LI (07 R313). -/
def execLi (lane : Fin 2) (s : State) : Host.Outcome State Fault Refusal := charmOp s lane 0x01 opLi
/-- MOV (07 R313). -/
def execMov (lane : Fin 2) (s : State) : Host.Outcome State Fault Refusal := charmOp s lane 0x02 opMov
/-- ADD (07 R313). -/
def execAdd (lane : Fin 2) (s : State) : Host.Outcome State Fault Refusal := charmOp s lane 0x03 opAdd
/-- SUB (07 R313). -/
def execSub (lane : Fin 2) (s : State) : Host.Outcome State Fault Refusal := charmOp s lane 0x04 opSub
/-- ADDI (07 R313). -/
def execAddi (lane : Fin 2) (s : State) : Host.Outcome State Fault Refusal := charmOp s lane 0x05 opAddi
/-- ABS (07 R313). -/
def execAbs (lane : Fin 2) (s : State) : Host.Outcome State Fault Refusal := charmOp s lane 0x06 opAbs
/-- MIN (07 R313). -/
def execMin (lane : Fin 2) (s : State) : Host.Outcome State Fault Refusal := charmOp s lane 0x07 opMin
/-- MAX (07 R313). -/
def execMax (lane : Fin 2) (s : State) : Host.Outcome State Fault Refusal := charmOp s lane 0x08 opMax
/-- MULQ (07 R313). -/
def execMulq (lane : Fin 2) (s : State) : Host.Outcome State Fault Refusal := charmOp s lane 0x09 opMulq
/-- SRA (07 R313). -/
def execSra (lane : Fin 2) (s : State) : Host.Outcome State Fault Refusal := charmOp s lane 0x0A opSra
/-- AND (07 R313). -/
def execAnd (lane : Fin 2) (s : State) : Host.Outcome State Fault Refusal := charmOp s lane 0x0B opAnd
/-- OR (07 R313). -/
def execOr (lane : Fin 2) (s : State) : Host.Outcome State Fault Refusal := charmOp s lane 0x0C opOr
/-- ANDI (07 R313). -/
def execAndi (lane : Fin 2) (s : State) : Host.Outcome State Fault Refusal := charmOp s lane 0x0D opAndi
/-- EMA (07 R313). -/
def execEma (lane : Fin 2) (s : State) : Host.Outcome State Fault Refusal := charmOp s lane 0x0E opEma
/-- CLRP (07 R313). -/
def execClrp (lane : Fin 2) (s : State) : Host.Outcome State Fault Refusal := charmOp s lane 0x0F opClrp
/-- LDR (07 R313). -/
def execLdr (lane : Fin 2) (s : State) : Host.Outcome State Fault Refusal := charmOp s lane 0x10 opLdr
/-- LDS (07 R313). -/
def execLds (lane : Fin 2) (s : State) : Host.Outcome State Fault Refusal := charmOp s lane 0x11 opLds
/-- LDSX (07 R313). -/
def execLdsx (lane : Fin 2) (s : State) : Host.Outcome State Fault Refusal := charmOp s lane 0x12 opLdsx
/-- LDF (07 R313). -/
def execLdf (lane : Fin 2) (s : State) : Host.Outcome State Fault Refusal := charmOp s lane 0x13 opLdf
/-- LDFX (07 R313). -/
def execLdfx (lane : Fin 2) (s : State) : Host.Outcome State Fault Refusal := charmOp s lane 0x14 opLdfx
/-- LDC (07 R313). -/
def execLdc (lane : Fin 2) (s : State) : Host.Outcome State Fault Refusal := charmOp s lane 0x15 opLdc
/-- LDQ (07 R313). -/
def execLdq (lane : Fin 2) (s : State) : Host.Outcome State Fault Refusal := charmOp s lane 0x16 opLdq
/-- LDP (07 R313). -/
def execLdp (lane : Fin 2) (s : State) : Host.Outcome State Fault Refusal := charmOp s lane 0x17 opLdp
/-- LDK (07 R313). -/
def execLdk (lane : Fin 2) (s : State) : Host.Outcome State Fault Refusal := charmOp s lane 0x18 opLdk
/-- B (07 R313). -/
def execB (lane : Fin 2) (s : State) : Host.Outcome State Fault Refusal := charmOp s lane 0x20 opB
/-- BEQ (07 R313). -/
def execBeq (lane : Fin 2) (s : State) : Host.Outcome State Fault Refusal := charmOp s lane 0x21 opBeq
/-- BNE (07 R313). -/
def execBne (lane : Fin 2) (s : State) : Host.Outcome State Fault Refusal := charmOp s lane 0x22 opBne
/-- BLT (07 R313). -/
def execBlt (lane : Fin 2) (s : State) : Host.Outcome State Fault Refusal := charmOp s lane 0x23 opBlt
/-- BGE (07 R313). -/
def execBge (lane : Fin 2) (s : State) : Host.Outcome State Fault Refusal := charmOp s lane 0x24 opBge
/-- BZ (07 R313). -/
def execBz (lane : Fin 2) (s : State) : Host.Outcome State Fault Refusal := charmOp s lane 0x25 opBz
/-- BNZ (07 R313). -/
def execBnz (lane : Fin 2) (s : State) : Host.Outcome State Fault Refusal := charmOp s lane 0x26 opBnz
/-- BLTZ (07 R313). -/
def execBltz (lane : Fin 2) (s : State) : Host.Outcome State Fault Refusal := charmOp s lane 0x27 opBltz
/-- BBS (07 R313). -/
def execBbs (lane : Fin 2) (s : State) : Host.Outcome State Fault Refusal := charmOp s lane 0x28 opBbs
/-- BBC (07 R313). -/
def execBbc (lane : Fin 2) (s : State) : Host.Outcome State Fault Refusal := charmOp s lane 0x29 opBbc
/-- BP (07 R313). -/
def execBp (lane : Fin 2) (s : State) : Host.Outcome State Fault Refusal := charmOp s lane 0x2A opBp
/-- JCS (07 R313). -/
def execJcs (lane : Fin 2) (s : State) : Host.Outcome State Fault Refusal := charmOp s lane 0x2B opJcs
/-- JST (07 R313). -/
def execJst (lane : Fin 2) (s : State) : Host.Outcome State Fault Refusal := charmOp s lane 0x2C opJst
/-- SST (07 R313). -/
def execSst (lane : Fin 2) (s : State) : Host.Outcome State Fault Refusal := charmOp s lane 0x30 opSst
/-- SSTV (07 R313). -/
def execSstv (lane : Fin 2) (s : State) : Host.Outcome State Fault Refusal := charmOp s lane 0x31 opSstv
/-- TSET (07 R313). -/
def execTset (lane : Fin 2) (s : State) : Host.Outcome State Fault Refusal := charmOp s lane 0x32 opTset
/-- TSETI (07 R313). -/
def execTseti (lane : Fin 2) (s : State) : Host.Outcome State Fault Refusal := charmOp s lane 0x33 opTseti
/-- CLASS (07 R313). -/
def execCls (lane : Fin 2) (s : State) : Host.Outcome State Fault Refusal := charmOp s lane 0x38 opCls
/-- HOLD (07 R313). -/
def execHold (lane : Fin 2) (s : State) : Host.Outcome State Fault Refusal := charmOp s lane 0x39 opHold
/-- VOUT (07 R313). -/
def execVout (lane : Fin 2) (s : State) : Host.Outcome State Fault Refusal := charmOp s lane 0x3A opVout
/-- LOOP (07 R313). -/
def execLoop (lane : Fin 2) (s : State) : Host.Outcome State Fault Refusal := charmOp s lane 0x3B opLoop
/-- EMIT (07 R313). -/
def execEmit (lane : Fin 2) (s : State) : Host.Outcome State Fault Refusal := charmOp s lane 0x3C opEmit
/-- MARK (07 R313). -/
def execMark (lane : Fin 2) (s : State) : Host.Outcome State Fault Refusal := charmOp s lane 0x3D opMark
/-- SIG (07 R313). -/
def execSig (lane : Fin 2) (s : State) : Host.Outcome State Fault Refusal := charmOp s lane 0x3E opSig
/-- An OP that is not in the table (07 R311). -/
def execIllegalOp (lane : Fin 2) (s : State) : Host.Outcome State Fault Refusal :=
  .next (onBus s (charmStep s lane.val (fun o => !knownOp o) (fun s r _ => endRun (instFlag s r.act.inst 3) lane.val)))
/-- The step limit (07 R298). -/
def execStepLimit (lane : Fin 2) (s : State) : Host.Outcome State Fault Refusal := .next (onBus s (stepLimit s lane.val))
/-- A free lane starts its next activation (07 R295). -/
def execActivationStart (lane : Fin 2) (s : State) : Host.Outcome State Fault Refusal :=
  .next (if s.pwr.entering then s else onBus s (startAct s lane.val))
/-- The oldest record that waits is fetched (07 R299). -/
def execRecordFetch (s : State) : Host.Outcome State Fault Refusal := .next (onBus s (fetchRecord s))
/-- The first timer that has reached 0 raises its activation (07 R292). -/
def execCharmTimerExpiry (s : State) : Host.Outcome State Fault Refusal := .next (onBus s (timerExpire s))
/-- The event at the head of the recognizer queue is delivered (06 R277). -/
def execRecognizerEventDrain (s : State) : Host.Outcome State Fault Refusal := .next (onBus s (drainEvent s))
/-- The first record of the write queue is written (07 R320). -/
def execCharmRecordWrite (s : State) : Host.Outcome State Fault Refusal := .next (onBus s (wqWrite s))

end Sys2Proof.Machine
end

