-- ==== Sys2Proof/Machine/Integ.lean ====
section
/-! DEFINITION. Memory and datapath slices, repairs, the locket, the hallmark and the BIST_, HM_ and LK_ registers (14). -/
namespace Sys2Proof.Machine

/-! ## Spares and repairs (14 R583-R585) -/

def spareLeft (s : State) (b : Nat) : Nat := tget 64 s.integ.sparesFused b - tget 0 s.integ.sparesUsed b

/-- `n` bytes from `a` hold no known value (log 4). -/
def loseBytes (s : State) (a n : Nat) : State :=
  let t := putBytes .store s a ((List.range n).map (fun i => Config.abandonedByte (s.free + i)))
  { t with free := s.free + n }

/-- A row is replaced by a spare. -/
def useSpare (s : State) (b r : Nat) : State :=
  let i := s.integ
  { s with integ := { i with sparesUsed := tput 0 i.sparesUsed b (tget 0 i.sparesUsed b + 1),
                             repaired := (b * 2048 + r) :: i.repaired, repCnt := bump s 20 0x028 i.repCnt 1 } }

/-- The page that a row of a bank belongs to. -/
def rowPage (s : State) (b r : Nat) : Nat := r / 4 * nBanks s + b

/-- A write of BIST_REPAIR (14 R585): the result, and the state. -/
def repairWrite (s : State) (v : Nat) : State :=
  let b := fld v 12 4
  let r := fld v 0 11
  let p := rowPage s b r
  let res (s : State) (c : Nat) : State := { s with integ := { s.integ with repairRes := BitVec.ofNat 3 c } }
  if nBanks s ≤ b then res s 3
  else if (s.integ.fused ++ s.integ.repaired).any (fun x => x == b * 2048 + r) then res s 2
  else if (s.page p).st != .free then res s 4
  else if spareLeft s b = 0 then res s 1
  else res (loseBytes (useSpare s b r) (p * 4096 + r % 4 * 1024) 1024) 0

/-! ## Memory slices (14 R578-R584) -/

/-- The slice on the page is abandoned: FREE, its contents undefined (14 R580). -/
def memAbandon (s : State) : State :=
  match s.integ.memSlice with
  | none => s
  | some p =>
    let s := loseBytes (s.setPage p ⟨.free, 0⟩) (p * 4096) 4096
    bistFlag { s with integ := { s.integ with memSlice := none } } 5

/-- The moment of the next slice: every PERIOD ms. -/
def sliceTime (at_ : Nat) (period : Word) : Nat := at_ + msCycles * max 1 period.toNat

/-- A memory slice starts (14 R578, R579). -/
def memStart (s : State) : State :=
  if !busRuns s || !s.integ.memEn || s.integ.memSlice.isSome || s.pwr.pfwLive || s.rst.pending then s
  else
    let s := passTime s (sliceTime s.integ.memAt s.integ.memPeriod)
    sliceTakePage { s with integ := { s.integ with memAt := s.now } }

/-- The rows of the failing words of a page, each once. -/
def failRows (s : State) (p : Nat) (ws : List Nat) : List Nat := (ws.map (wordRow s p)).eraseDups

/-- Each failing row takes a spare while the bank has one: the rows that got none, and the state. -/
def replaceRows (s : State) (b : Nat) : List Nat → List Nat × State
  | [] => ([], s)
  | r :: rs =>
    if spareLeft s b = 0 then
      let t := replaceRows s b rs
      (r :: t.1, t.2)
    else replaceRows (bistFlag (useSpare s b r) 1) b rs

/-- The page is RETIRED and its failing rows are logged (14 R584). -/
def memRetire (s : State) (p : Nat) (rows : List Nat) : State :=
  let s := bistFlag (bistFlag (s.setPage p ⟨.retired, 0⟩) 0) 2
  loseBytes (rows.foldl (fun s r => elogHit s p (r % 4 * 512)) s) (p * 4096) 4096

/-- The page is cleared and FREE. -/
def memFreed (s : State) (p : Nat) : State :=
  { s with store := tclear s.store (p * 4096) 4096, storeBad := tclear s.storeBad (p * 4096) 4096 }.setPage p ⟨.free, 0⟩

/-- A memory slice ends with these failing words, and with those of the pass that follows a repair. -/
def memEnd (s : State) (failing again : List Nat) : State :=
  match s.integ.memSlice with
  | none => s
  | some p =>
    if portBlocked s 10 then memAbandon s
    else
      let s := { s with integ := { s.integ with memSlice := none, tested := p :: s.integ.tested } }
      if failing = [] then memFreed s p
      else
        let b := pageBank s p
        let rows := failRows s p failing
        let s := { s with integ := { s.integ with failPage := BitVec.ofNat 13 p, failLoc := BitVec.ofNat 16 (b * 4096 + nth 0 rows 0) } }
        let t := replaceRows s b rows
        if t.1 != [] then memRetire t.2 p t.1
        else if again = [] then memFreed t.2 p
        else memRetire t.2 p (failRows t.2 p again)

/-! ## Datapath slices (14 R586-R588) -/

/-- The pair may be sliced. -/
def sliceable (s : State) (p : Nat) : Bool := bitAt s.fe.pairEn p && bitAt s.integ.dpMask p && !bitAt s.dc.busy p

/-- The next pair in ascending order with wrap. -/
def nextSlicePair (s : State) : Option Nat :=
  let all := (List.range (nPairs s)).filter (sliceable s)
  if !s.integ.dpAny then all.head?
  else match all.filter (fun p => s.integ.dpPair.toNat < p) with
    | p :: _ => some p
    | [] => all.head?

def dpBegin (s : State) : State :=
  if !feRuns s || !s.integ.dpWin || s.integ.dpSlice.isSome || s.integ.dpStart.isSome then s
  else
    let s := passTime s (sliceTime s.integ.dpAt s.integ.dpPeriod)
    let s := { s with integ := { s.integ with dpAt := s.now } }
    match nextSlicePair s with
    | none => s
    | some p => { s with integ := { s.integ with dpStart := some (BitVec.ofNat 8 p) } }

/-- The slice ends at S0 + 16,384: the signature is compared and the chain restarts (14 R587, R588). -/
def dpEnd (s : State) (ok : Bool) : State :=
  match s.integ.dpSlice with
  | none => s
  | some s0 =>
    if !feRuns s then s
    else
      let p := s.integ.dpPair.toNat
      let s := passTo s (s0 + 16384)
      let s := if ok then s else bistFlag { s with integ := { s.integ with dpFail := setBitTo s.integ.dpFail p true } } 4
      let s := { s with integ := { s.integ with dpSlice := none } }
      let s := s.setPdc p { s.pdc p with restartReq := none, restartDue := none, heldRestart := false }
      dcRestart s p (s0 + 16384) 1

/-! ## The locket (14 R592-R597) -/

def lkFlag (s : State) (b : Nat) : State := { s with integ := { s.integ with lkFlt := setBitTo s.integ.lkFlt b true } }
/-- The dump keeper. -/
def dumper (s : State) : Nat := if s.integ.k0Bad then 1 else 0

/-- A write of LK_K0_RST (14 R592). -/
def k0RstWrite (s : State) (k v : Nat) : State :=
  if k = 0 ∨ v ≠ 0xA50F then lkFlag s 5 else { s with integ := { s.integ with seqDue := true } }

/-- A write of LK_COMMIT (14 R596). -/
def commitWrite (s : State) (k len : Nat) : State :=
  if k ≠ dumper s then lkFlag s 2
  else if len < 16 ∨ 32640 < len then lkFlag s 1
  else
    let i := s.integ
    lkFlag { s with integ := { i with lkPresent := true, lkLen := BitVec.ofNat 32 len, lkKeeper := BitVec.ofNat 2 k, lkTs := s.e,
                                      lkSeq := i.lkSeq + 1, k0Bad := i.k0Bad && k != 1 } } 0

/-- A write of LK_CTRL (14 R594, R597). -/
def lkCtrlWrite (s : State) (k v : Nat) : State :=
  let i := s.integ
  { s with integ := { i with k0Bad := i.k0Bad && !(v.testBit 0 && k == 1), lkPresent := i.lkPresent && !v.testBit 1 } }

/-! ## The hallmark (14 R602-R608) -/

/-- The state that the fuses give (14 R602). -/
def fuseState (i : Integ) : Nat :=
  if i.fuse3.1 || i.fuse3.2 then 3 else if i.fuse2.1 || i.fuse2.2 then 2 else if i.fuse1.1 || i.fuse1.2 then 1 else 0

/-- Fuse `n` of the six, in order. -/
def blowFuse (i : Integ) (n : Nat) : Integ :=
  match n with
  | 0 => { i with fuse1 := (true, i.fuse1.2) }
  | 1 => { i with fuse1 := (i.fuse1.1, true) }
  | 2 => { i with fuse2 := (true, i.fuse2.2) }
  | 3 => { i with fuse2 := (i.fuse2.1, true) }
  | 4 => { i with fuse3 := (true, i.fuse3.2) }
  | _ => { i with fuse3 := (i.fuse3.1, true) }

/-- The fuses of the transitions from `a` to `b`, the first `n` of them blown. -/
def blowFuses (i : Integ) (a b n : Nat) : Integ := ((List.range (2 * (b - a))).take n).foldl (fun i k => blowFuse i (2 * a + k)) i

/-- A torn pair is completed at the fuse read (14 R603). -/
def mendFuses (i : Integ) : Integ :=
  let torn := (i.fuse1.1 != i.fuse1.2) || (i.fuse2.1 != i.fuse2.2) || (i.fuse3.1 != i.fuse3.2)
  let i := { i with fuse1 := (i.fuse1.1 || i.fuse1.2, i.fuse1.1 || i.fuse1.2), fuse2 := (i.fuse2.1 || i.fuse2.2, i.fuse2.1 || i.fuse2.2),
                    fuse3 := (i.fuse3.1 || i.fuse3.2, i.fuse3.1 || i.fuse3.2) }
  { i with tornFixed := torn, hallmark := BitVec.ofNat 2 (fuseState i) }

/-- The fuses as a POR finds them: an advance in progress has blown one every 2 ms. -/
def tornFuses (s : State) : Integ :=
  match s.integ.hmTarget with
  | some t => blowFuses s.integ (hallmark s) t.toNat ((s.now - s.integ.hmAdvAt) / (2 * msCycles))
  | none => s.integ

def hmFlag (s : State) (b : Nat) : State := { s with integ := { s.integ with hmEvt := setBitTo s.integ.hmEvt b true } }

/-- A write of HM_KEY by keeper `k`. -/
def hmKeyWrite (s : State) (k v : Nat) : State :=
  { s with integ := { s.integ with hmKey := tput none s.integ.hmKey k (if v = 0xC0DE then some s.cyc else none) } }

/-- The key of keeper `k` is in time. -/
def hmKeyed (s : State) (k : Nat) : Bool :=
  match tget none s.integ.hmKey k with
  | some t => s.cyc ≤ t + 64
  | none => false

/-- A write of HM_ADVANCE by keeper `k` (14 R604, R605). -/
def advanceWrite (s : State) (k v : Nat) : State :=
  let t := v % 4
  let code := if !hmKeyed s k then 1 else if t ≤ hallmark s then 2 else if s.pwr.pfailSince then 3 else 0
  let i := { s.integ with hmKey := tput none s.integ.hmKey k none, hmResult := BitVec.ofNat 3 code }
  if s.integ.hmTarget.isSome then s
  else if code = 0 then { s with integ := { i with hmTarget := some (BitVec.ofNat 2 t), hmAdvAt := s.now } }
  else hmFlag { s with integ := i } 0

/-- The permit closes. -/
def permitClose (s : State) : State := if s.integ.hmOpen then hmFlag { s with integ := { s.integ with hmOpen := false } } 2 else s

/-- A write of HM_UPD (14 R608). -/
def updWrite (s : State) (v : Nat) : State :=
  if hallmark s ≠ 2 then s
  else if v ≠ 0 ∧ v = getLE .iram s 0x38 4 then hmFlag { s with integ := { s.integ with hmOpen := true, hmOpenAt := s.now } } 1
  else hmFlag (permitClose s) 3

/-- HM_UPD_TMO seconds have passed since the permit opened. -/
def updExpire (s : State) : State :=
  if s.integ.hmOpen && due s (s.integ.hmOpenAt + 1000 * msCycles * max 1 s.integ.hmTmo.toNat) then permitClose s else s

/-! ## Registers (14 R610-R612) -/

def bistRead (s : State) (off : Nat) : Nat :=
  let i := s.integ
  if 0x040 ≤ off ∧ off < 0x058 then mapWord (i.dpMask &&& pairMask s) ((off - 0x040) / 2)
  else if 0x060 ≤ off ∧ off < 0x078 then mapWord i.dpFail ((off - 0x060) / 2)
  else match off with
    | 0x000 => i.bootResult.toNat + i.safeCause.toNat * 16 + i.bootChain.toNat * 256
    | 0x002 => i.bootAddr.toNat
    | 0x010 => b2n i.memEn
    | 0x012 => i.memPeriod.toNat
    | 0x014 => i.memPage.toNat
    | 0x016 => i.memLap.toNat
    | 0x01A => i.untCnt.toNat
    | 0x01C => i.untFirst.toNat
    | 0x020 => i.spareSel.toNat
    | 0x022 => spareLeft s i.spareSel.toNat
    | 0x026 => i.repairRes.toNat
    | 0x028 => i.repCnt.toNat
    | 0x030 => b2n i.dpWin
    | 0x032 => i.dpPeriod.toNat
    | 0x034 => b2n i.dpSlice.isSome * 32768 + i.dpPair.toNat
    | 0x080 => i.flt.toNat
    | 0x082 => i.fltIe.toNat
    | 0x084 => i.failPage.toNat
    | 0x086 => i.failLoc.toNat
    | _ => 0

/-- A write to the BIST_ block. The bits of BIST_SPARE_SEL that name absent banks stay 0 (01 R51, 15 R629). -/
def bistWrite (s : State) (off v : Nat) : State :=
  let i := s.integ
  if 0x040 ≤ off ∧ off < 0x058 then { s with integ := { i with dpMask := setMapWord i.dpMask ((off - 0x040) / 2) v } }
  else if 0x060 ≤ off ∧ off < 0x078 then { s with integ := { i with dpFail := clearMapWord i.dpFail ((off - 0x060) / 2) v } }
  else match off with
    | 0x010 => { s with integ := { i with memEn := v.testBit 0, memAt := if v.testBit 0 && !i.memEn then s.now else i.memAt } }
    | 0x012 => { s with integ := { i with memPeriod := BitVec.ofNat 16 v } }
    | 0x020 => { s with integ := { i with spareSel := BitVec.ofNat 4 (v % nBanks s) } }
    | 0x024 => repairWrite s v
    | 0x028 => { s with integ := { i with repCnt := BitVec.ofNat 16 v } }
    | 0x030 => { s with integ := { i with dpWin := v.testBit 0, dpAt := if v.testBit 0 && !i.dpWin then s.now else i.dpAt } }
    | 0x032 => { s with integ := { i with dpPeriod := BitVec.ofNat 16 v } }
    | 0x080 => { s with integ := { i with flt := w1c i.flt v } }
    | 0x082 => { s with integ := { i with fltIe := BitVec.ofNat 7 v } }
    | _ => s

def bistWide (off : Nat) : Option (Nat × Nat) :=
  match off with
  | 0x002 | 0x004 => some (0x002, 2)
  | 0x016 | 0x018 => some (0x016, 2)
  | _ => none

def bistAbsent (s : State) (off : Nat) : Bool :=
  if 0x040 ≤ off ∧ off < 0x058 then nPairs s ≤ 16 * ((off - 0x040) / 2)
  else if 0x060 ≤ off ∧ off < 0x078 then nPairs s ≤ 16 * ((off - 0x060) / 2)
  else false

def hmRead (s : State) (off : Nat) : Nat :=
  let i := s.integ
  match off with
  | 0x000 => hallmark s + b2n i.tornFixed * 16 + b2n (hallmark s != 2) * 32
  | 0x006 => i.hmResult.toNat
  | 0x00C => b2n i.hmOpen
  | 0x00E => i.hmTmo.toNat
  | 0x010 => i.hmEvt.toNat
  | 0x012 => i.hmEvtIe.toNat
  | _ => 0

def hmWrite (s : State) (k off v : Nat) : State :=
  let i := s.integ
  match off with
  | 0x002 => hmKeyWrite s k v
  | 0x004 => advanceWrite s k v
  | 0x008 => updWrite s v
  | 0x00E => { s with integ := { i with hmTmo := BitVec.ofNat 16 v } }
  | 0x010 => { s with integ := { i with hmEvt := w1c i.hmEvt v } }
  | 0x012 => { s with integ := { i with hmEvtIe := BitVec.ofNat 4 v } }
  | _ => s

def hmWide (off : Nat) : Option (Nat × Nat) := if off = 0x008 ∨ off = 0x00A then some (0x008, 2) else none

def lkRead (s : State) (off : Nat) : Nat :=
  let i := s.integ
  match off with
  | 0x000 => b2n i.lkPresent + dumper s * 16 + b2n i.k0Bad * 256
  | 0x008 => i.lkLen.toNat
  | 0x00C => i.lkSeq.toNat
  | 0x010 => i.lkTs
  | 0x018 => i.lkKeeper.toNat
  | 0x022 => i.k0RstCnt.toNat
  | 0x024 => i.lkFlt.toNat
  | 0x026 => i.lkFltIe.toNat
  | _ => 0

def lkWrite (s : State) (k off v : Nat) : State :=
  let i := s.integ
  match off with
  | 0x002 => lkCtrlWrite s k v
  | 0x004 => commitWrite s k v
  | 0x020 => k0RstWrite s k v
  | 0x022 => { s with integ := { i with k0RstCnt := BitVec.ofNat 16 v } }
  | 0x024 => { s with integ := { i with lkFlt := w1c i.lkFlt v } }
  | 0x026 => { s with integ := { i with lkFltIe := BitVec.ofNat 6 v } }
  | _ => s

def lkWide (off : Nat) : Option (Nat × Nat) :=
  match off with
  | 0x004 | 0x006 => some (0x004, 2)
  | 0x008 | 0x00A => some (0x008, 2)
  | 0x010 | 0x012 | 0x014 | 0x016 => some (0x010, 4)
  | _ => none

end Sys2Proof.Machine
end

