-- ==== Sys2Proof/Machine/Pwr.lean ====
section
/-! DEFINITION. Clocks, the 1 ms tick, DOZE, the watch, the power-fail warning and the CLK_, PWR_ and RST_ registers
(13; 16 R664-R667). -/
namespace Sys2Proof.Machine

def pwrFlag (s : State) (b : Nat) : State := { s with pwr := { s.pwr with evt := setBitTo s.pwr.evt b true } }

/-! ## The PLL and the spread (13 R537-R539) -/

/-- The PLL loses lock while running. -/
def pllLost (s : State) : State :=
  if !s.pwr.pllLock || s.pwr.st == .sleep || s.rst.porHeld then s
  else
    let p := s.pwr
    { s with pwr := { p with pllLock := false, unlockAt := some s.now, clkFlt := p.clkFlt ||| 1, unlockCnt := bump s 1 0x008 p.unlockCnt 1 } }

/-- The first whole FE period from now. -/
def nextPer (s : State) : Nat := (s.now + 31) / 32

/-- Lock returns: the clocks start, every enabled pair restarts at the next swap instant (03 R135), and the link requests that
waited are executed, the chain's first (11 R491; 13 R538). -/
def pllBack (s : State) : State :=
  if s.pwr.unlockAt.isNone then s
  else
    let s := clocksStart { s with pwr := { s.pwr with pllLock := true, unlockAt := none }, fe := { s.fe with clkFrom := nextPer s } }
    let s := (List.range (nPairs s)).foldl (fun s p =>
      if bitAt s.fe.pairEn p then s.setPdc p { s.pdc p with restartReq := some ((s.pdc p).restartReq.getD 0) } else s) s
    twHeldRun (bcHeldRun s)

/-- The time of the next top of the modulation. -/
def topTime (s : State) : Nat := s.pwr.modAt + (nextTop s + 999) / 1000

/-- A new depth takes effect at the next top of the modulation (13 R539). -/
def sscApply (s : State) : State := if busRuns s && s.pwr.sscAct != sscNext s then passTime s (topTime s) else s

/-- The low 48 bits of the timestamp wrap (13 R541). -/
def wrapEpoch (s : State) : State := passTo s ((s.per / 2 ^ 48 + 1) * 2 ^ 48)

/-! ## The 1 ms tick (13 R542) -/

/-- HOLDUP, `mv` mV, is below 1.02 times the threshold (13 R556). -/
def holdLow (s : State) (mv : Nat) : Bool := decide (100 * mv < 102 * s.pwr.pfwThr.toNat)

/-- HOLDUP and the junction temperature are measured (12 R523, 16 R664, R667); firmware's PWR_TJ_MAX stands (00 R23). -/
def tickMeasure (s : State) (m : TickIn) : State :=
  let p := s.pwr
  { s with pwr := { p with holdup := BitVec.ofNat 16 (min m.holdup 65535), tj := m.tj,
                           tjMax := if p.tjMax.toInt < m.tj.toInt && !s.fwWrote 2 0x016 then m.tj else p.tjMax,
                           hupLow := if holdLow s m.holdup then s.now else p.hupLow } }

/-- A tick: measurements in every state but while the PLL is unlocked or NRST keeps a reset applied, loops and charm timers where
FE_CLK runs. -/
def tickAt (s : State) (m : TickIn) : State :=
  if s.rst.porHeld then s
  else
    let t := nextInstant s s.pwr.nextTick 3072
    let s := passTo s t
    let s := { s with pwr := { s.pwr with nextTick := t + 3072 } }
    if s.pwr.unlockAt.isSome || s.rst.heldByNrst then s
    else
      let s := tickMeasure s m
      if feRuns s then timersTick (timersFlush (loopsTick s m.loop)) (t % 2 ^ 52) else s

/-- The ratiometric outputs take their codes at the next update instant (09 R409). -/
def voUpdateAt (s : State) : State :=
  if !feRuns s then s
  else
    let t := nextInstant s s.io.nextVo 32
    let s := voUpdate (passTo s t)
    { s with io := { s.io with nextVo := t + 32 } }

/-! ## The watch, DOZE (08 R377-R379; 13 R546-R548) -/

/-- The sources that watch entries have hit are pending when the keepers resume (08 R379). -/
def hitsPending (s : State) : State :=
  (List.range 16).foldl (fun s w =>
    if bitAt s.kic.watchHit w then
      { s with kic := { s.kic with spend := setBitTo s.kic.spend ((tget 0 s.kic.watch w).toNat % 256) true } }
    else s) s

/-- Every keeper leaves WFI. -/
def keepersResume (s : State) : State :=
  (List.range (nKeepers s)).foldl (fun s k => s.setKeeper k { s.keeper k with wfi := false }) s

/-- DOZE ends (13 R548). -/
def dozeExit (s : State) : State :=
  let s := pwrFlag (hitsPending (keepersResume s)) 0
  wdtSyncAll { s with pwr := { s.pwr with st := .run, req := 0 } }

/-- A SLEEP entry is abandoned (13 R550). -/
def sleepAbort (s : State) : State :=
  let s := pwrFlag (hitsPending (keepersResume s)) 1
  { s with pwr := { s.pwr with entering := false, req := 0 } }

/-- The watch is awake: during a SLEEP entry, in DOZE at BUS_CLK and in SLEEP (08 R377, R378; 13 R550). -/
def watchAwake (s : State) : Bool := (busRuns s && (s.pwr.entering || s.pwr.st == .doze)) || s.pwr.st == .sleep

/-- The shared source that watch entry `w` names. -/
def watchSrc (s : State) (w : Nat) : Nat := (tget 0 s.kic.watch w).toNat % 256

/-- The watch senses entry `w` now (08 R377, R378): it is enabled, and in SLEEP its source is an AON source. -/
def watchSenses (s : State) (w : Nat) : Bool :=
  watchAwake s && bitAt (tget 0 s.kic.watch w) 15 && (s.pwr.st != .sleep || sharedAon (watchSrc s w))

/-- Source `n` has an event in its own sensing mode, from the level that the watch sensed last to the present one. -/
def watchEventful (s : State) (n : Nat) : Bool := senseHit (scfgSense (tget 0 s.kic.scfg n)) (bitAt s.kic.wsin n) (sharedLevel s n)

/-- The entries that source `n`'s event hits. -/
def watchEntries (s : State) (n : Nat) : List Nat :=
  if watchEventful s n then (List.range 16).filter (fun w => watchSenses s w && watchSrc s w == n) else []

/-- The hub is asked to wake by watch entry `w`. -/
def watchWakes (s : State) (w : Nat) : State :=
  if s.pwr.st = .sleep then
    { s with pwr := { s.pwr with wake := (match s.pwr.wake with | some x => some x | none => some (1, w)) } }
  else if s.pwr.st = .doze then dozeExit s
  else sleepAbort s

/-- The watch senses source `n` in a cycle: each entry that names it and senses an event is hit, and the first of them wakes
the hub (08 R377; 13 R554). -/
def watchSource (s : State) (n : Nat) : State :=
  if !watchAwake s then s
  else
    let hits := watchEntries s n
    let k := s.kic
    let s := { s with kic := { k with watchHit := hits.foldl (fun m w => setBitTo m w true) k.watchHit,
                                      wsin := setBitTo k.wsin n (sharedLevel s n) } }
    match hits with
    | w :: _ => watchWakes s w
    | [] => s

/-- Four cycles after the last keeper is ready, the keepers' clocks stop, unless a keeper has left WFI by then (13 R546, R548). -/
def dozeStart (s : State) : State :=
  if s.pwr.st != .run || s.pwr.req != 1 || !allReady s || !busRuns s then s
  else
    let s := passCycles s 4
    if !allReady s then s else wdtSyncAll (pwrFlag { watchTakes s with pwr := { s.pwr with st := .doze } } 0)

/-- PWR_ENTRY_TMO has passed with a keeper not ready (13 R546). -/
def entryTimeout (s : State) : State :=
  let p := s.pwr
  if p.req != 0 && p.st == .run && !p.entering && !allReady s && due s (p.reqAt + msCycles * max 1 p.entryTmo.toNat) then
    pwrFlag { s with pwr := { p with req := 0 } } 1
  else s

/-! ## The power-fail warning (13 R556-R558) -/

/-- HOLDUP is at `mv` mV: the warning starts when that is below the threshold (13 R556, R557). A warning that stands lasts until
HOLDUP has stayed high enough. -/
def warnStart (s : State) (mv : Nat) : State :=
  if s.rst.porHeld then s
  else
    let s := if holdLow s mv then { s with pwr := { s.pwr with hupLow := s.now } } else s
    if s.pwr.pfwLive || decide (s.pwr.pfwThr.toNat ≤ mv) then s
    else
      let s := pwrFlag { s with pwr := { s.pwr with pfwLive := true, pfailSince := true } } 2
      if s.pwr.st = .sleep then s
      else
        let s := dpAbandon (memAbandon s)
        { s with pwr := { s.pwr with port11 := true, flushing := true } }

/-- Port 11 has written every complete record of the decimation buffers. -/
def warnFlush (s : State) : State :=
  if !s.pwr.flushing || !busRuns s then s
  else pwrFlag { writeAllReady s with pwr := { (writeAllReady s).pwr with flushing := false } } 3

/-- HOLDUP is at `mv` mV and has stayed at or above 1.02 times the threshold: the warning ends when it has for 1 ms (13 R556). -/
def warnEnd (s : State) (mv : Nat) : State :=
  if !s.pwr.pfwLive || holdLow s mv then s
  else
    let s := warnFlush (passTime s (s.pwr.hupLow + msCycles))
    { s with pwr := { s.pwr with pfwLive := false, port11 := false, flushing := false } }

/-! ## Registers (13 R564-R566; 16 R665-R667) -/

def clkRead (s : State) (off : Nat) : Nat :=
  let p := s.pwr
  match off with
  | 0x000 => p.ssc.toNat
  | 0x002 => b2n p.pllLock + b2n p.xsel * 2 + p.sscAct.toNat * 16
  | 0x004 => p.clkFlt.toNat
  | 0x006 => p.clkFltIe.toNat
  | 0x008 => p.unlockCnt.toNat
  | _ => 0

def clkWrite (s : State) (off v : Nat) : State :=
  let p := s.pwr
  match off with
  | 0x000 => { s with pwr := { p with ssc := BitVec.ofNat 2 v } }
  | 0x004 => { s with pwr := { p with clkFlt := w1c p.clkFlt v } }
  | 0x006 => { s with pwr := { p with clkFltIe := BitVec.ofNat 2 v } }
  | 0x008 => { s with pwr := { p with unlockCnt := BitVec.ofNat 16 v } }
  | _ => s

/-- The value of PWR_PADCFGg after a POR (16 R666). -/
def padReset (g : Nat) : Word :=
  match g with
  | 16 | 17 | 21 | 22 => 0x20
  | 19 | 20 => 0x10
  | _ => 0
/-- The fields that group `g` uses. -/
def padMask (g : Nat) : Word :=
  match g with
  | 21 | 22 => 0x30
  | 23 => 0x03
  | _ => 0x33

/-- The bits of the present banks. -/
def bankMask (s : State) : Nat := 2 ^ nBanks s - 1

def pwrRead (s : State) (off : Nat) : Nat :=
  let p := s.pwr
  if 0x100 ≤ off ∧ off < 0x130 then ((tget none p.padcfg ((off - 0x100) / 2)).getD (padReset ((off - 0x100) / 2))).toNat
  else match off with
    | 0x000 => p.req.toNat
    | 0x002 => pwrCode p.st + b2n p.entering * 4 + b2n p.pfwLive * 8 + b2n p.port11 * 16
    | 0x004 => p.evt.toNat
    | 0x006 => p.evtIe.toNat
    | 0x008 => p.ret.toNat % (bankMask s + 1)
    | 0x00A => p.entryTmo.toNat
    | 0x00C => p.pfwThr.toNat
    | 0x00E => p.holdup.toNat
    | 0x010 => p.wakeCause.toNat + p.wakeEntry.toNat * 256
    | 0x014 => p.tj.toNat
    | 0x016 => p.tjMax.toNat
    | _ => 0

def pwrWrite (s : State) (off v : Nat) : State :=
  let p := s.pwr
  if 0x100 ≤ off ∧ off < 0x130 then
    let g := (off - 0x100) / 2
    { s with pwr := { p with padcfg := tput none p.padcfg g (some (BitVec.ofNat 16 v &&& padMask g)) } }
  else match off with
    | 0x000 => pwrReqWrite s v
    | 0x004 => { s with pwr := { p with evt := w1c p.evt v } }
    | 0x006 => { s with pwr := { p with evtIe := BitVec.ofNat 5 v } }
    | 0x008 => { s with pwr := { p with ret := BitVec.ofNat 16 v } }
    | 0x00A => { s with pwr := { p with entryTmo := BitVec.ofNat 8 v } }
    | 0x00C => { s with pwr := { p with pfwThr := BitVec.ofNat 16 v } }
    | 0x016 => { s with pwr := { p with tjMax := p.tj } }
    | _ => s

/-- Pad groups of absent ports and lines (01 R50). -/
def pwrAbsent (s : State) (off : Nat) : Bool :=
  (0x100 ≤ off && off < 0x120 && nPorts s ≤ (off - 0x100) / 2) || (off == 0x122 && nLines s == 16)

def rstRead (s : State) (off : Nat) : Nat :=
  let r := s.rst
  match off with
  | 0x000 => r.kind.toNat + b2n r.rootLoss * 8 + b2n r.pllLoss * 16
  | 0x002 => r.hist.toNat
  | 0x004 => r.discard.toNat + r.keepers.toNat * 256 + b2n r.storeWait * 4096
  | 0x006 => r.count.toNat
  | 0x008 => b2n r.warm
  | 0x00A => b2n r.ie
  | _ => 0

def rstWrite (s : State) (off v : Nat) : State :=
  let r := s.rst
  match off with
  | 0x002 => { s with rst := { r with hist := w1c r.hist v } }
  | 0x008 => { s with rst := { r with warm := w1cBit r.warm v 0 } }
  | 0x00A => { s with rst := { r with ie := v.testBit 0 } }
  | _ => s

end Sys2Proof.Machine
end

