-- ==== Sys2Proof/Machine/Sleep.lean ====
section
/-! DEFINITION. Entering and leaving SLEEP, and the resets of the whole hub (13 R549-R555, R559-R563). -/
namespace Sys2Proof.Machine

/-! ## Entering SLEEP (13 R549, R551, R552) -/

/-- Step 3: begun stores finish and a chain reply in progress ends. -/
def sleepWaits (s : State) : State :=
  let waited := s.img.stores != [] || s.bc.reply.isSome
  let s := bcSend (finishStores s) false
  if waited then pwrFlag s 4 else s

/-- Every request at a group is served, and the group idles. -/
def groupIdle (s : State) (gi : Nat) : State :=
  let g := s.agrp gi
  let s := (List.range 12).foldl (fun s p =>
    match arbReq s g p with
    | some q =>
      let left := match g.grant.toList.find? (fun b => b.owner == p), g.susp.toList.find? (fun b => b.owner == p) with
        | some b, _ => b.left
        | none, some b => b.left
        | none, none => q.len
      if portBlocked s p then s else moveWords s q (q.len - left) left
    | none => s) s
  s.setAgrp gi { g with reqs := [], dropped := [], grant := none, parked := false, susp := none }

/-- The front end stops at the next swap instant; FE_CTRL.RUN keeps its value. -/
def feStop (s : State) : State :=
  let run := s.fe.run
  let t := nextInstant s s.fe.nextSwap 128
  let s := settleBefore (passTo s t) t
  let s := swapFront { s with fe := { s.fe with run := false } } t (fun _ => none)
  { s with fe := { s.fe with run := run } }

/-- Up to `n` waiting frames are written. -/
def writeFrames (s : State) : Nat → State
  | 0 => s
  | n + 1 => writeFrames (writeFrame s) n

/-- Up to `n` records of the write queue are written. -/
def writeQueue (s : State) : Nat → State
  | 0 => s
  | n + 1 => writeQueue (wqWrite s) n

def fetchAll (s : State) : State := (List.range s.ss.fetches.length).foldl (fun s _ => fetchRecord s) s

/-- Step 4: running activations end, the front end stops, complete records are written. -/
def sleepStops (s : State) : State :=
  let s := charmRunOut (charmRunOut s 0 64) 1 64
  let s := writeAllReady (feStop s)
  let s := (List.range (nPorts s)).foldl (fun s n => endFrame s n 3 false) s
  let s := writeQueue (fetchAll (writeFrames s 64)) 64
  (List.range 4).foldl groupIdle s

/-- A change in progress is abandoned, as for a restart (13 R552, 03 R162). -/
def changeAbandon (s : State) (p : Nat) : State :=
  let pd := s.pdc p
  match pd.change with
  | none => s
  | some c =>
    { s with dc := { s.dc with busy := setBitTo s.dc.busy p false, doneStk := setBitTo s.dc.doneStk p true } }.setPdc p
      { pd with change := none, filt := { word := c.word }, pad := 0 }

/-- A bank that PWR_RET, or its capture, does not retain. -/
def bankLost (s : State) (ret : Word) (b : Nat) : Bool := decide (b < nBanks s) && !bitAt ret b

/-- Streams with a page in a bank that is not retained are disarmed. -/
def disarmLost (s : State) : State :=
  { s with ss := { s.ss with streams := s.ss.streams.map (fun e =>
    if e.2.armed && (ringPages s e.2).any (fun p => bankLost s s.pwr.ret (pageBank s p)) then (e.1, { e.2 with armed := false })
    else e) } }

/-- Every output is commanded to its safe value (13 R551). -/
def outputsSafe (s : State) : State :=
  let s := (List.range (nLines s)).foldl (fun s n => lineSet s n (bitAt s.io.ilSafe n)) s
  let s := (List.range (nVouts s)).foldl (fun s n => voCodeSet s n (tget 0x8000 s.io.voSafe n).toNat) s
  let s := (List.range (nLoops s)).foldl (fun s n => s.setLout n (loopCmd (s.lout n) (s.lout n).safe.toNat)) s
  voUpdate s

/-- Step 5. -/
def sleepSettles (s : State) : State :=
  let s := dpAbandon (memAbandon s)
  let s := (List.range (nPairs s)).foldl changeAbandon s
  let s := disarmLost s
  outputsSafe { s with pwr := { s.pwr with retCap := s.pwr.ret } }

/-- SLEEP entry, steps 3 to 6. -/
def sleepEnter (s : State) : State :=
  if !s.pwr.entering || s.rst.pending || s.pwr.st != .run || !busRuns s then s
  else
    let s := sleepSettles (warnFlush (sleepStops (sleepWaits s)))
    let s := pwrFlag s 0
    wdtSyncAll { s with bc := { s.bc with lowRate := true, rateDue := none }, tw := { s.tw with stopWait := false },
                        pwr := { s.pwr with entering := false, st := .sleep, pllLock := false, sleepAt := s.now, wake := none,
                                            port11 := false } }

/-! ## Leaving SLEEP (13 R553-R555) -/

/-- Pages of the banks that were not powered are cleared. -/
def clearBank (s : State) (b : Nat) : State :=
  let mine (e : Nat × Byte) : Bool := pageBank s (e.1 / 4096) == b
  let bad (e : Nat × Bool) : Bool := pageBank s (e.1 / 4096) == b
  { s with store := s.store.filter (fun e => !mine e), storeBad := s.storeBad.filter (fun e => !bad e) }

/-- Banks without power are cleared; a locket page in one of them loses the locket (14 R597). -/
def banksCleared (s : State) : State :=
  let lost := (List.range (nBanks s)).filter (bankLost s s.pwr.retCap)
  let gone := s.integ.lkPresent && (List.range 16).any (fun p => bankLost s s.pwr.retCap (pageBank s p))
  let s := lost.foldl clearBank s
  if gone then lkFlag { s with integ := { s.integ with lkPresent := false } } 4 else s

/-- Banks without power in the group that has most of them: they are cleared in turn, the groups in parallel (13 R555). -/
def banksTurn (s : State) : Nat :=
  let lost := (List.range (nBanks s)).filter (bankLost s s.pwr.retCap)
  (List.range 4).foldl (fun m g => max m (lost.filter (fun b => b % 4 == g)).length) 0

/-- The loops restart their counts as after a new command (13 R551). -/
def loopsResume (s : State) : State :=
  (List.range (nLoops s)).foldl (fun s n => s.setLout n { s.lout n with shorts := 0, allLow := true, skip := 1 }) s

/-- SLEEP exit (13 R555): the PLL locks and the clocks start; unpowered banks are cleared while the keepers' clocks are stopped;
the front end starts and the hub is in RUN; the keepers resume. Port 11 serves a warning that still stands (R557). -/
def sleepLeave (s : State) : State :=
  match s.pwr.wake with
  | none => s
  | some (c, w) =>
    if s.pwr.st != .sleep || s.rst.pending then s
    else
      let s := clocksStart { s with pwr := { s.pwr with wakeCause := BitVec.ofNat 2 c, wakeEntry := BitVec.ofNat 4 w, wake := none,
                                                        pllLock := true, st := .doze },
                                    bc := { s.bc with wakeReq := false } }
      let s := passCycles s (1048576 * banksTurn s)
      let s := { s with fe := { s.fe with clkFrom := nextPer s }, pwr := { s.pwr with st := .run, port11 := s.pwr.pfwLive } }
      let s := feStart (loopsResume (banksCleared (if c = 1 then bcExitRate s else s)))
      let s := hitsPending { s with kic := { s.kic with spend := 0, sheld := 0 } }
      let s := pwrFlag (keepersResume s) 0
      wdtSyncAll { s with pwr := { s.pwr with req := 0 } }

/-! ## Resets of the whole hub (13 R559-R563) -/

/-- A cause of a warm reset (13 R560 steps 1 and 2, R561; 14 R577). -/
def resetCause (s : State) (kind : Nat) : State :=
  let hist := setBitTo s.rst.hist kind true
  if s.rst.porHeld || (s.integ.safe && kind != 1) then s
  else if s.rst.pending then { s with rst := { s.rst with hist := hist } }
  else
    let s := outputsOff s
    { s with rst := { s.rst with kind := BitVec.ofNat 3 kind, rootLoss := false, pllLoss := false, hist := hist, pending := true },
             ss := { s.ss with streams := s.ss.streams.map (fun e =>
               (e.1, { e.2 with armed := false, checking := false, keptLevel := some (strmLevel e.2) })) } }

/-- A stream as a warm reset leaves it (04 R205, R215). -/
def streamKept (st : Stream) : Stream := { head := st.head, tail := st.tail, keptLevel := some (strmLevel st) }

/-- A BORROWED page is FREE, its contents undefined (04 R167, 14 R580). -/
def sliceLost (s : State) : State :=
  match s.integ.memSlice with
  | none => s
  | some p => loseBytes (s.setPage p ⟨.free, 0⟩) (p * 4096) 4096

/-- The pending MAIL of the chain becomes a stored error (10 R454). -/
def mailLost (s : State) : State :=
  match s.bc.mail with
  | none => s
  | some m => bcRestore s m.src m.seq 0xFF [rstat s false m.fresh false false, 0x09, 12, 0, 0]

/-- The fuses of an accepted advance are all blown before a reset is applied (14 R605). -/
def fusesDone (s : State) : Integ :=
  match s.integ.hmTarget with
  | some t => blowFuses s.integ (hallmark s) t.toNat (2 * (t.toNat - hallmark s))
  | none => s.integ

/-- What a warm reset keeps (13 R563 and the notes of the register tables); all else takes its reset value. -/
def warmState (s : State) : State :=
  let i := fusesDone s
  let p := s.pwr
  let r := s.rst
  let zero := fuseState i == 3 && i.hallmark != 3
  { variant := s.variant, now := s.now, busM := s.busM, fw := s.fw, fwAt := s.fwAt, wram := if zero then [] else s.wram, wramBad := if zero then [] else s.wramBad,
    store := s.store, storeBad := s.storeBad, free := s.free, pending := s.pending, rdata := s.rdata,
    kic := { watch := s.kic.watch, watchHit := s.kic.watchHit },
    fe := { clkFrom := nextPer s },
    ss := { pages := s.ss.pages, ring := s.ss.ring, elog := s.ss.elog, elogOvf := s.ss.elogOvf, scrubLap := s.ss.scrubLap,
            streams := s.ss.streams.foldl (fun t e => tput {} t e.1 (streamKept e.2)) [], scrubStart := s.now, iscrubAt := s.cyc },
    bc := { addr := s.bc.addr, nseq := s.bc.nseq, windows := s.bc.windows },
    tw := { addr := s.tw.addr, window := s.tw.window },
    img := { eeprom := s.img.eeprom },
    pwr := { pllLock := p.pllLock || p.st == .sleep, modAt := if p.st = .sleep then s.now else p.modAt, unlockAt := p.unlockAt, xsel := p.xsel, clkFlt := p.clkFlt, unlockCnt := p.unlockCnt,
             ret := p.ret, pfwThr := p.pfwThr, tjMax := p.tjMax, padcfg := p.padcfg, wakeBalls := p.wakeBalls, extest := p.extest },
    rst := { kind := r.kind, hist := r.hist, discard := r.discard, keepers := r.keepers, storeWait := r.storeWait,
             count := satAdd r.count 1, nrstLow := r.nrstLow, heldByNrst := r.nrstLow, startUpDue := !r.nrstLow, cold := false },
    integ := { memLap := i.memLap, sparesUsed := i.sparesUsed, sparesFused := i.sparesFused, repaired := i.repaired, repCnt := i.repCnt,
               fuse1 := i.fuse1, fuse2 := i.fuse2, fuse3 := i.fuse3, hallmark := i.hallmark, lkPresent := i.lkPresent,
               k0Bad := i.k0Bad, lkLen := i.lkLen, lkSeq := i.lkSeq, lkTs := i.lkTs, lkKeeper := i.lkKeeper,
               k0RstCnt := i.k0RstCnt, lkFlt := i.lkFlt } }

/-- Step 3: the store buffers drain; `left` says how many entries of each keeper remain. -/
def resetDrain (s : State) (left : List Nat) : State :=
  let r := (List.range (nKeepers s)).foldl (fun (a : State × Nat × Nat) k =>
    let d := drainReset a.1 k (nth 0 left k)
    (d.2, a.2.1 + d.1, if d.1 = 0 then a.2.2 else a.2.2 + 2 ^ k)) (s, 0, 0)
  { r.1 with rst := { r.1.rst with discard := BitVec.ofNat 8 (min 255 r.2.1), keepers := BitVec.ofNat 4 r.2.2 } }

/-- Steps 3 to 6 of a warm reset (13 R560). -/
def warmReset (s : State) (left : List Nat) : State :=
  if !s.rst.pending then s
  else
    let s := resetDrain s left
    let s := { s with rst := { s.rst with storeWait := s.img.stores != [] } }
    let s := finishStores s
    let s := twMailLost (mailLost (sliceLost s))
    let t := warmState (if s.pwr.st = .sleep then banksCleared s else s)
    { t with was := t.snap }

/-- A begun store that was under way when a POR came may be torn (13 R568). -/
def tearStore (s : State) (x : EepStore) : State :=
  if x.polling then
    let n := x.data.length
    let t := eepWrite s x.addr ((List.range n).map (fun i => Config.tornByte (s.free + i)))
    { t with free := s.free + n }
  else s

/-- What a POR leaves (13 R559, R562): the fuses are kept; the EEPROM and the balls lie outside the hub. -/
def porUnits (s : State) (rootLoss pllLoss : Bool) : State :=
  let t := s.img.stores.foldl tearStore s
  let i := tornFuses s
  { variant := s.variant, free := t.free, pending := s.pending, rdata := s.rdata, img := { eeprom := t.img.eeprom },
    pwr := { wakeBalls := s.pwr.wakeBalls, extest := s.pwr.extest },
    rst := { kind := 0, rootLoss := rootLoss, pllLoss := pllLoss,
             hist := BitVec.ofNat 7 (1 + 32 * b2n rootLoss + 64 * b2n pllLoss), porHeld := true, nrstLow := s.rst.nrstLow },
    integ := { fuse1 := i.fuse1, fuse2 := i.fuse2, fuse3 := i.fuse3, hallmark := BitVec.ofNat 2 (fuseState i) } }

/-- A POR: its first cycle begins with what it leaves. -/
def porState (s : State) (rootLoss pllLoss : Bool) : State :=
  let t := porUnits s rootLoss pllLoss
  { t with was := t.snap }

/-- The POR is released: the straps are sampled, and the timestamp counts from now (13 R540, 16 R643). -/
def porReleased (s : State) (st : Straps) : State :=
  if !s.rst.porHeld then s
  else
    let t := { s with now := 0, bc := { s.bc with addr := st.bcId }, tw := { s.tw with addr := st.twA }, pwr := { s.pwr with xsel := st.xsel },
                      rst := { s.rst with porHeld := false, heldByNrst := s.rst.nrstLow, startUpDue := !s.rst.nrstLow } }
    { t with was := t.snap }

/-- NRST goes low, and returns high. -/
def nrstLow (s : State) : State :=
  let s := resetCause s 1
  { s with rst := { s.rst with nrstLow := true } }
def nrstHigh (s : State) : State :=
  let r := s.rst
  { s with rst := { r with nrstLow := false, startUpDue := r.startUpDue || r.heldByNrst, heldByNrst := false } }

/-- An accepted advance: the fuses are blown, then the HALLMARK reset (14 R605). -/
def advanceDone (s : State) : State :=
  match s.integ.hmTarget with
  | none => s
  | some t =>
    let n := 2 * (t.toNat - hallmark s)
    let s := passTime s (s.integ.hmAdvAt + 2 * msCycles * n)
    resetCause { s with integ := { blowFuses s.integ (hallmark s) t.toNat n with hmTarget := none } } 4

/-- The RESET of the chain falls due (10 R460). -/
def chainResetDue (s : State) : State :=
  if s.bc.resetDue then resetCause { s with bc := { s.bc with resetDue := false } } 2 else s

/-- Lock has not returned within 1 ms (13 R537). -/
def lockTimeout (s : State) : State :=
  match s.pwr.unlockAt with
  | some t => if due s (t + msCycles) then porState s false true else s
  | none => s

end Sys2Proof.Machine
end

