-- ==== Sys2Proof/Machine/Regs.lean ====
section
/-! DEFINITION. Register space: the blocks, wide values, absent units, and who accesses (00 R16-R28, 01 R39-R56). -/
namespace Sys2Proof.Machine

/-- The base of register space and of a block (01 R47). -/
def regBase : Nat := 0x40000000
def regAddr (blk off : Nat) : Nat := regBase + 0x1000 * blk + off
/-- The address names a register place: an even address in one of the 22 blocks. -/
def regValid (a : Nat) : Bool := decide (regBase ≤ a) && decide (a < regBase + 0x16000) && a % 2 == 0
def regBlock (a : Nat) : Nat := (a - regBase) / 0x1000
def regOff (a : Nat) : Nat := a % 0x1000

/-- Whose banked registers a requester reaches: the loader's are K0's (12 R520); a link reaches none. -/
def reqKeeper : Req → Nat
  | .keeper k => k.val
  | .loader => 0
  | _ => 4

/-- Wide values of a block: lowest offset and parts (00 R25). -/
def unitWide (blk off : Nat) : Option (Nat × Nat) :=
  match blk with
  | 4 => hmWide off
  | 5 => imgWide off
  | 8 => ssWide off
  | 13 => kpWide off
  | 14 => ipWide off
  | 20 => bistWide off
  | 21 => lkWide off
  | _ => none

/-- The register serves only absent instances, or its block is absent (01 R49, R50). -/
def unitAbsent (s : State) (blk off : Nat) : Bool :=
  match blk with
  | 2 => pwrAbsent s off
  | 6 => feAbsent s off
  | 7 => dcAbsent s off
  | 8 => ssAbsent s off
  | 10 => rcAbsent s off
  | 11 => ceAbsent s off
  | 12 =>
    let o := off % 0x100
    decide (0x400 ≤ off) && decide (off < 0x800) && (decide (o < 0x4C) || (decide (0x50 ≤ o) && decide (o < 0x60))) &&
      decide (nKeepers s ≤ (off - 0x400) / 0x100)
  | 13 => kpAbsent s off
  | 14 => ipAbsent s off
  | 15 => ilAbsent s off
  | 16 => voAbsent s off
  | 17 => loAbsent s
  | 20 => bistAbsent s off
  | _ => false

/-- A block as requester `r` reads it; a wide value whole at its lowest offset. -/
def unitRead (s : State) (r : Req) (blk off : Nat) : Nat :=
  let k := reqKeeper r
  match blk with
  | 0 => if off < 8 then capWord s.variant (off / 2) else 0
  | 1 => clkRead s off
  | 2 => pwrRead s off
  | 3 => rstRead s off
  | 4 => hmRead s off
  | 5 => imgRead s k off
  | 6 => feRead s off
  | 7 => dcRead s off
  | 8 => ssRead s k off
  | 9 => arbRead s off
  | 10 => rcRead s off
  | 11 => ceRead s k off
  | 12 => kicRead s off
  | 13 => kpRead s k off
  | 14 => ipRead s off
  | 15 => ilRead s off
  | 16 => voRead s off
  | 17 => loRead s off
  | 18 => bcRead s off
  | 19 => twRegRead s off
  | 20 => bistRead s off
  | 21 => lkRead s off
  | _ => 0

/-- In SAFE state writes to the IP_, IL_, VO_ and LO_ blocks are ignored (09 R419). -/
def safeIgnores (s : State) (blk : Nat) : Bool := s.integ.safe && decide (14 ≤ blk) && decide (blk ≤ 17)

/-- In SAFE state FE_CTRL.RUN and CE_CTRL.RUN stay 0 (14 R575). -/
def safeMask (s : State) (blk off v : Nat) : Nat :=
  if s.integ.safe && (blk == 6 || blk == 11) && off == 0 then v / 2 * 2 else v

/-- The firmware request in hand keeps its address: writes to IMG_REQ_ADDR are ignored, its lower part's too (12 R531). -/
def reqAddrKept (s : State) (blk off : Nat) : Bool := blk == 5 && (off == 0x030 || off == 0x032) && reqBusy s

/-- The requester writes as a keeper, not in K0's place. -/
def reqOwn : Req → Bool
  | .keeper _ => true
  | _ => false

/-- A write to a block; a wide value whole at its lowest offset. -/
def unitWrite (s : State) (r : Req) (blk off v : Nat) : State :=
  let k := reqKeeper r
  match blk with
  | 1 => clkWrite s off v
  | 2 => pwrWrite s off v
  | 3 => rstWrite s off v
  | 4 => hmWrite s k off v
  | 5 => imgWrite s k off v
  | 6 => feWrite s off v
  | 7 => dcWrite s off v
  | 8 => ssWrite s k off v
  | 9 => arbWrite s off v
  | 10 => rcWrite s off v
  | 11 => ceWrite s k (!reqOwn r) off v
  | 12 => kicWrite s (some k) off v
  | 13 => kpWrite s k (reqOwn r) off v
  | 14 => ipWrite s off v
  | 15 => ilWrite s off v
  | 16 => voWrite s off v
  | 17 => loWrite s off v
  | 18 => bcWrite s off v
  | 19 => twRegWrite s off v
  | 20 => bistWrite s off v
  | 21 => lkWrite s k off v
  | _ => s

/-- A keeper's access to an absent unit sets its ABSENT_HIT; other requesters' set none (01 R52, R56). -/
def absentHit (s : State) (r : Req) : State :=
  match r with
  | .keeper k => s.setKeeper k { s.keeper k with absentHit := true }
  | _ => s

/-! ## A write and an update in one cycle (00 R22, R23) -/

/-- A write-1-to-clear register. -/
def w1cReg (blk off : Nat) : Bool :=
  let words (lo n : Nat) : Bool := decide (lo ≤ off) && decide (off < lo + 2 * n)
  match blk with
  | 1 | 2 => off == 4
  | 3 => off == 2 || off == 8
  | 4 => off == 0x010
  | 5 => off == 0x050
  | 6 => words 0x0C0 12 || words 0x0E0 12 || words 0x100 12
  | 7 => words 0x060 12 || words 0x0A0 12 || words 0x0C0 12 || words 0x0E0 12
  | 8 => off == 0x018 || off == 0x040
  | 9 => off == 0x004 || (words 0x100 64 && off % 0x20 == 8)
  | 10 => off == 0
  | 11 => off == 2 || off == 0x030 || off == 0x126 || words 0x200 128 || words 0x300 128
  | 12 => off == 0x820 || (words 0x400 512 && off % 0x100 == 0x5E)
  | 13 => off == 2
  | 14 => words 0x100 512 && off % 0x40 == 0x0E
  | 15 => words 0x00C 4
  | 16 => off == 2 || off == 6
  | 17 => words 0x100 64 && off % 0x10 == 8
  | 18 | 19 => off == 4
  | 20 => words 0x060 12 || off == 0x080
  | 21 => off == 0x024
  | _ => false

/-- The units as they stood when the cycle began; the keepers' selections stay for every block but their own. -/
def cycleStart (s : State) (blk : Nat) : State :=
  let w := s.was
  { s with keepers := if blk = 13 then w.keepers else s.keepers, banks := w.banks, kic := w.kic, fe := w.fe, dc := w.dc, ss := w.ss,
           arb := w.arb, rc := w.rc, ce := w.ce, io := w.io, bc := w.bc, tw := w.tw, img := w.img, pwr := w.pwr, rst := w.rst,
           integ := w.integ }

/-- What a write of `v` clears of a write-1-to-clear register: no bit that the hub has set in this cycle (00 R22; log 65). -/
def w1cKept (s : State) (r : Req) (blk off v : Nat) : Nat :=
  if w1cReg blk off then v - (v &&& (unitRead s r blk off ^^^ (unitRead s r blk off &&& unitRead (cycleStart s blk) r blk off))) else v

/-- A register that firmware writes and the hub updates: a counter, a class or an output's command, a pending word. -/
def hubUpdated (blk off : Nat) : Bool :=
  match blk with
  | 1 => off == 8
  | 2 => off == 0x016
  | 7 => off == 2 || off == 4
  | 8 => [0x002, 0x01A, 0x048, 0x056, 0x05E, 0x064, 0x07A].any (fun o => o == off)
  | 9 => off == 0x00A
  | 10 => off == 4 || off == 6 || (decide (0x100 ≤ off) && off % 0x40 == 0x36)
  | 11 => [0x006, 0x008, 0x00A, 0x00C, 0x00E, 0x016, 0x018, 0x020, 0x022, 0x024, 0x026, 0x128].any (fun o => o == off)
  | 12 => (decide (0x200 ≤ off) && decide (off < 0x220)) || (decide (0x400 ≤ off) && decide (off < 0x800) && off % 0x100 / 4 == 0x10)
  | 14 => decide (0x100 ≤ off) && [0x14, 0x16, 0x18].any (fun o => o == off % 0x40)
  | 15 => off == 0 || off == 2
  | 16 => decide (0x100 ≤ off) && off % 0x10 == 0
  | 17 => decide (0x100 ≤ off) && off % 0x10 == 0
  | 18 => [0x008, 0x020, 0x022, 0x024].any (fun o => o == off)
  | 19 => [0x008, 0x020, 0x022, 0x024, 0x026].any (fun o => o == off)
  | 20 => off == 0x028
  | 21 => off == 0x022
  | _ => false

/-- The instance that a select register of keeper `k` names, for a register of one instance. -/
def fwInst (s : State) (k blk off : Nat) : Nat :=
  if blk = 8 ∧ (off = 0x002 ∨ off = 0x01A) then (s.keeper k).ssDsel.toNat
  else if blk = 11 ∧ off = 0x128 then (s.keeper k).ceIsel.toNat
  else 0

/-- A write to a block that takes one word, remembered for this cycle where the hub updates the register (00 R23). -/
def unitWriteNow (s : State) (r : Req) (blk off v : Nat) : State :=
  let t := unitWrite s r blk off (safeMask s blk off (w1cKept s r blk off v))
  if hubUpdated blk off then t.fwMark blk off (fwInst s (reqKeeper r) blk off) else t

/-! ## Reads -/

/-- The higher parts of a wide value are captured with a read of its lowest part (00 R26). -/
def capture (s : State) (r : Req) (lo v : Nat) : Nat → State
  | 0 => s
  | n + 1 => capture { s with wideCap := tput 0 s.wideCap (wideKey (reqIndex r) (lo + 2 * (n + 1))) (BitVec.ofNat 16 (part v (n + 1))) } r lo v n

/-- What else a read does: a semaphore is acquired, a stream is marked seen, a source is claimed (08 R356, R367; 04 R192). -/
def readEffect (s : State) (r : Req) (blk off : Nat) : State :=
  match r with
  | .keeper k =>
    if blk = 13 ∧ 0x240 ≤ off ∧ off < 0x260 then semTake s k ((off - 0x240) / 2)
    else if blk = 8 ∧ off = 0x018 then markSeen s (s.keeper k).ssDsel.toNat
    else if blk = 12 ∧ 0x400 ≤ off ∧ off < 0x800 ∧ off % 0x100 = 0x54 then (claimNow s ((off - 0x400) / 0x100)).2
    else s
  | _ => s

/-- The state before the value of a read is taken: a free semaphore is acquired first. -/
def readFirst (s : State) (r : Req) (blk off : Nat) : State :=
  if blk = 13 ∧ 0x240 ≤ off ∧ off < 0x260 then readEffect s r blk off else s

/-- A 16-bit read of a register: the word, and the state after it. -/
def regRead (s : State) (r : Req) (a : Nat) : Nat × State :=
  let blk := regBlock a
  let off := regOff a
  if !regValid a then (0, s)
  else if unitAbsent s blk off then (0, absentHit s r)
  else match unitWide blk off with
    | some (lo, n) =>
      if off = lo then
        let v := unitRead s r blk lo
        (part v 0, capture s r (a - off + lo) v (n - 1))
      else ((tget 0 s.wideCap (wideKey (reqIndex r) a)).toNat, s)
    | none =>
      let s := readFirst s r blk off
      (unitRead s r blk off % 65536, readEffect s r blk off)

/-! ## Writes -/

/-- The value of a wide write: held parts, and what the register holds for parts not written (00 R27). DESIGN CHOICE (log 53): a
write-only register (HM_UPD, LK_COMMIT) holds 0 in such a part, as it reads. -/
def heldValue (s : State) (r : Req) (lo cur : Nat) : Nat → Nat
  | 0 => 0
  | n + 1 =>
    let p := match tget none s.wideHold (wideKey (reqIndex r) (lo + 2 * n)) with | some w => w.toNat | none => part cur n
    heldValue s r lo cur n + p * 2 ^ (16 * n)

/-- The held parts of a value are spent. -/
def dropHeld (s : State) (r : Req) (lo : Nat) : Nat → State
  | 0 => s
  | n + 1 => dropHeld { s with wideHold := tput none s.wideHold (wideKey (reqIndex r) (lo + 2 * n)) none } r lo n

/-- A 16-bit write to a register. -/
def regWrite (s : State) (r : Req) (a v : Nat) : State :=
  let blk := regBlock a
  let off := regOff a
  if !regValid a || reqKeeper r == 4 then s
  else if unitAbsent s blk off then absentHit s r
  else if safeIgnores s blk || reqAddrKept s blk off then s
  else match unitWide blk off with
    | some (lo, n) =>
      let base := a - off + lo
      if off = lo + 2 * (n - 1) then
        let full := heldValue s r base (unitRead s r blk lo) (n - 1) + v % 65536 * 2 ^ (16 * (n - 1))
        unitWrite (dropHeld s r base (n - 1)) r blk lo full
      else { s with wideHold := tput none s.wideHold (wideKey (reqIndex r) a) (some (BitVec.ofNat 16 v)) }
    | none => unitWriteNow s r blk off (v % 65536)

/-! ## Who may access -/

/-- The requester can make an access now. -/
def reqActs (s : State) : Req → Bool
  | .keeper k => keeperActs s k
  | .loader => busRuns s && !s.rst.loaded && !s.integ.safe
  | _ => linksAnswer s

/-- A non-posted access waits until the keeper's store buffer is empty (08 R346). -/
def reqWaits (s : State) : Req → State
  | .keeper k => drainAll s k
  | _ => s

/-- An access by a requester that can make it. -/
def access (s : State) (r : Req) (f : State → State) : State := if reqActs s r then f (reqWaits s r) else s

/-- A register write as a command. -/
def writeReg (s : State) (r : Req) (a v : Nat) : State := access s r (fun s => regWrite s r a v)

/-- A whole wide value written by a requester: its parts in order, lowest first. -/
def writeWide (s : State) (r : Req) (a v n : Nat) : State :=
  access s r (fun s => (List.range n).foldl (fun s i => regWrite s r (a + 2 * i) (part v i)) s)

/-- A register read as a command: the word is kept for the requester. -/
def readReg (s : State) (r : Req) (a : Nat) : State :=
  access s r (fun s =>
    let t := regRead s r a
    { t.2 with rdata := tput 0 t.2.rdata (reqIndex r) (BitVec.ofNat 16 t.1) })

end Sys2Proof.Machine
end

