-- ==== Sys2Proof/Machine/Rv.lean ====
section
/-! DEFINITION. RV32IMC with machine mode: memory accesses of a keeper, CSRs, instructions and their execution
(01 R39-R44, R53; 04 R207-R210; 08 R339-R349). -/
namespace Sys2Proof.Machine

/-! ## Results of an access -/

/-- What an access of a keeper gives: a value, an exception with cause and mtval, or no progress (a stalled claim read). -/
inductive Acc where
  | ok (v : Nat) (s : State)
  | fault (cause tval : Nat) (s : State)
  | stall

/-- Sixteen-bit words of image RAM that `n` bytes from `a` touch: one of them is poisoned. -/
def iramPois (s : State) (a n : Nat) : Bool := badLE .iram s (a / 2 * 2) (2 * ((a + n + 1) / 2 - a / 2))

/-- The first byte of working RAM from `a` whose parity fails, among `n`. -/
def firstBad (s : State) : Nat → Nat → Option Nat
  | _, 0 => none
  | a, n + 1 => if badByte .wram s a then some a else firstBad s (a + 1) n

/-- A poisoned working RAM byte has been read (04 R209). -/
def wramHit (s : State) (a : Nat) : State :=
  { s with ss := { s.ss with wramAddr := BitVec.ofNat 18 a, wramCnt := bump s 8 0x064 s.ss.wramCnt 1, flt := s.ss.flt ||| 64 } }

/-- The newest buffered data for a byte of working RAM (08 R345). -/
def buffered (l : List StoreEntry) (a : Nat) : Option Byte :=
  l.foldl (fun r e => if e.addr ≤ a ∧ a < e.addr + e.bytes.length then some (nth 0 e.bytes (a - e.addr)) else r) none

def wramBase : Nat := 0x10000000
def wramSize : Nat := 0x40000
def winBase : Nat := 0x20000000
def winSize : Nat := 0x2000000
def iramSize : Nat := 0x30000

/-- Lies in the range of `n` bytes from `b`. -/
def inRange_ (a b n : Nat) : Bool := decide (b ≤ a) && decide (a < b + n)

/-! ## Loads and stores (01 R39-R44) -/

/-- A working RAM load of `n` bytes at offset `o`: buffered bytes first, then memory with its parity. -/
def wramLoad (s : State) (k o n : Nat) : Option Nat × State :=
  let sb := (s.keeper k).sbuf
  let clean := (List.range n).filter (fun i => (buffered sb (o + i)).isNone)
  match (clean.map (o + ·)).find? (fun a => badByte .wram s a) with
  | some a => (none, wramHit s a)
  | none => (some ((List.range n).foldl (fun v i => v + ((buffered sb (o + i)).getD (getByte .wram s (o + i))).toNat * 256 ^ i) 0), s)

/-- The burst of a keeper's access of `n` bytes at offset `o` of the window: one word, or two, at the group of its page
(05 R221). -/
def winBurst (s : State) (k o n : Nat) : State := arbServe s (pageGroup s (o / 4096)) (2 + k) ((n + 1) / 2)

/-- A load through the sample store window at offset `o` (01 R43, R53; 04 R210, R212; 05 R236). -/
def winLoad (s : State) (k o n : Nat) : Option Nat × State :=
  if nPages s * 4096 ≤ o then (some 0, absentHit s (.keeper (keeperFin k)))
  else if portBlocked s (2 + k) then (none, s)
  else
    let w := o / 2
    let r := (List.range ((n + 1) / 2)).foldl (fun (a : Bool × State) i =>
      let x := readStore a.2 (w + i)
      (a.1 || x.1.2, x.2)) (false, winBurst s k o n)
    if r.1 && n != 1 then (none, r.2) else (some (getLE .store s o n), r.2)

/-- A claim read of a bank by keeper `k` that a freeze stalls: none, or the bank. -/
def claimAt (s : State) (a : Nat) : Option Nat :=
  let off := regOff a
  if regBlock a = 12 ∧ 0x400 ≤ off ∧ off < 0x800 ∧ off % 0x100 = 0x54 ∧ (off - 0x400) / 0x100 < nKeepers s then some ((off - 0x400) / 0x100)
  else none

/-- A claim read at this address would stall (08 R373). -/
def loadStalls (s : State) (a : Nat) : Bool := match claimAt s a with | some b => claimStalls s b | none => false

/-- A load of `n` bytes (1, 2 or 4). -/
def kLoad (s : State) (k a n : Nat) : Acc :=
  if a % n ≠ 0 then .fault 4 a s
  else if a < iramSize then
    (if iramPois s a n then .fault 5 a (askRefetch s a) else .ok (getLE .iram s a n) s)
  else if inRange_ a wramBase wramSize then
    (match wramLoad s k (a - wramBase) n with
     | (some v, s) => .ok v s
     | (none, s) => .fault 5 a s)
  else if inRange_ a winBase winSize then
    (match winLoad (drainAll s k) k (a - winBase) n with
     | (some v, s) => .ok v s
     | (none, s) => .fault 5 a s)
  else if regValid a && n == 2 then
    (if loadStalls s a then .stall
     else
      let r := regRead (drainAll s k) (.keeper (keeperFin k)) a
      .ok r.1 r.2)
  else .fault 5 a s

/-- Halfwords of working RAM have been stored: keeper `j` fetches them correctly only after a FENCE.I of its own (08 R347). -/
def markStale (s : State) (j : Nat) (hs : List Nat) : State :=
  let kp := s.keeper j
  s.setKeeper j { kp with stale := hs.filter (fun h => !kp.stale.any (fun x => x == h)) ++ kp.stale }

/-- A working RAM store enters the buffer; a full buffer drains one entry first (08 R345, R347). -/
def bufStore (s : State) (k o v n : Nat) : State :=
  let s := if 8 ≤ (s.keeper k).sbuf.length then drainOne s k else s
  let kp := s.keeper k
  let hs := (List.range ((n + 1) / 2)).map (fun i => o / 2 + i)
  let s := s.setKeeper k { kp with sbuf := kp.sbuf ++ [⟨o, leBytes v n⟩] }
  (List.range (nKeepers s)).foldl (fun s j => markStale s j hs) s

/-- A store of `n` bytes. -/
def kStore (s : State) (k a v n : Nat) : Acc :=
  if a % n ≠ 0 then .fault 6 a s
  else if inRange_ a wramBase wramSize then .ok 0 (bufStore s k (a - wramBase) v n)
  else if inRange_ a winBase winSize && n != 1 then
    let s := drainAll s k
    let o := a - winBase
    if nPages s * 4096 ≤ o then .ok 0 (absentHit s (.keeper (keeperFin k)))
    else if portBlocked s (2 + k) then .fault 7 a s
    else .ok 0 (putLE .store (winBurst s k o n) o v n)
  else if regValid a && n == 2 then .ok 0 (regWrite (drainAll s k) (.keeper (keeperFin k)) a v)
  else .fault 7 a s

/-! ## Fetching (08 R347) -/

/-- The parcel at `a`: its bits, or an access fault. -/
def fetchParcel (s : State) (k a : Nat) : Acc :=
  if a + 2 ≤ iramSize then
    (if iramPois s a 2 then .fault 1 a (askRefetch s a) else .ok (getLE .iram s a 2) s)
  else if inRange_ a wramBase wramSize then
    let o := a - wramBase
    match firstBad s o 2 with
    | some b => .fault 1 a (wramHit s b)
    | none =>
      if (s.keeper k).stale.any (fun h => h == o / 2) then .ok (Config.staleParcel s.free).toNat s.nextFree
      else .ok (getLE .wram s o 2) s
  else .fault 1 a s

/-! ## Compressed instructions -/

/-- Encodings of the base instructions that compressed ones stand for; immediates as residues. -/
def encR (f7 rs2 rs1 f3 rd op : Nat) : Nat := f7 * 2 ^ 25 + rs2 * 2 ^ 20 + rs1 * 2 ^ 15 + f3 * 2 ^ 12 + rd * 2 ^ 7 + op
def encI (imm rs1 f3 rd op : Nat) : Nat := imm % 4096 * 2 ^ 20 + rs1 * 2 ^ 15 + f3 * 2 ^ 12 + rd * 2 ^ 7 + op
def encS (imm rs2 rs1 f3 : Nat) : Nat :=
  fld imm 5 7 * 2 ^ 25 + rs2 * 2 ^ 20 + rs1 * 2 ^ 15 + f3 * 2 ^ 12 + fld imm 0 5 * 2 ^ 7 + 0x23
def encB (imm rs2 rs1 f3 : Nat) : Nat :=
  fld imm 12 1 * 2 ^ 31 + fld imm 5 6 * 2 ^ 25 + rs2 * 2 ^ 20 + rs1 * 2 ^ 15 + f3 * 2 ^ 12 + fld imm 1 4 * 2 ^ 8 + fld imm 11 1 * 2 ^ 7 + 0x63
def encJ (imm rd : Nat) : Nat :=
  fld imm 20 1 * 2 ^ 31 + fld imm 1 10 * 2 ^ 21 + fld imm 11 1 * 2 ^ 20 + fld imm 12 8 * 2 ^ 12 + rd * 2 ^ 7 + 0x6F
def encU (imm rd op : Nat) : Nat := imm % 2 ^ 20 * 2 ^ 12 + rd * 2 ^ 7 + op

/-- A field of `n` bits sign-extended into `m` bits. -/
def sext (v n m : Nat) : Nat := if v.testBit (n - 1) then v + (2 ^ m - 2 ^ n) else v

/-- Quadrant 0. -/
def rvc0 (h : Nat) : Option Nat :=
  let rd := 8 + fld h 2 3
  let rs := 8 + fld h 7 3
  let imm := fld h 10 3 * 8 + fld h 6 1 * 4 + fld h 5 1 * 64
  match fld h 13 3 with
  | 0 =>
    let i := fld h 11 2 * 16 + fld h 7 4 * 64 + fld h 6 1 * 4 + fld h 5 1 * 8
    if i = 0 then none else some (encI i 2 0 rd 0x13)
  | 2 => some (encI imm rs 2 rd 0x03)
  | 6 => some (encS imm rd rs 2)
  | _ => none

/-- The register arithmetic of quadrant 1. -/
def rvcAlu (h : Nat) : Option Nat :=
  let rd := 8 + fld h 7 3
  let rs2 := 8 + fld h 2 3
  let sh := fld h 2 5
  match fld h 10 2 with
  | 0 => if fld h 12 1 = 1 then none else some (encR 0 sh rd 5 rd 0x13)
  | 1 => if fld h 12 1 = 1 then none else some (encR 0x20 sh rd 5 rd 0x13)
  | 2 => some (encI (sext (fld h 12 1 * 32 + sh) 6 12) rd 7 rd 0x13)
  | _ =>
    if fld h 12 1 = 1 then none
    else match fld h 5 2 with
      | 0 => some (encR 0x20 rs2 rd 0 rd 0x33)
      | 1 => some (encR 0 rs2 rd 4 rd 0x33)
      | 2 => some (encR 0 rs2 rd 6 rd 0x33)
      | _ => some (encR 0 rs2 rd 7 rd 0x33)

/-- Quadrant 1. -/
def rvc1 (h : Nat) : Option Nat :=
  let rd := fld h 7 5
  let i6 := fld h 12 1 * 32 + fld h 2 5
  let j := sext (fld h 12 1 * 2048 + fld h 11 1 * 16 + fld h 9 2 * 256 + fld h 8 1 * 1024 + fld h 7 1 * 64 + fld h 6 1 * 128 +
    fld h 3 3 * 2 + fld h 2 1 * 32) 12 21
  let b := sext (fld h 12 1 * 256 + fld h 10 2 * 8 + fld h 5 2 * 64 + fld h 3 2 * 2 + fld h 2 1 * 32) 9 13
  match fld h 13 3 with
  | 0 => some (encI (sext i6 6 12) rd 0 rd 0x13)
  | 1 => some (encJ j 1)
  | 2 => some (encI (sext i6 6 12) 0 0 rd 0x13)
  | 3 =>
    if i6 = 0 then none
    else if rd = 2 then
      let i := fld h 12 1 * 512 + fld h 6 1 * 16 + fld h 5 1 * 64 + fld h 3 2 * 128 + fld h 2 1 * 32
      some (encI (sext i 10 12) 2 0 2 0x13)
    else some (encU (sext i6 6 20) rd 0x37)
  | 4 => rvcAlu h
  | 5 => some (encJ j 0)
  | 6 => some (encB b 0 (8 + fld h 7 3) 0)
  | _ => some (encB b 0 (8 + fld h 7 3) 1)

/-- Quadrant 2. -/
def rvc2 (h : Nat) : Option Nat :=
  let rd := fld h 7 5
  let rs2 := fld h 2 5
  match fld h 13 3 with
  | 0 => if fld h 12 1 = 1 then none else some (encR 0 rs2 rd 1 rd 0x13)
  | 2 => if rd = 0 then none else some (encI (fld h 12 1 * 32 + fld h 4 3 * 4 + fld h 2 2 * 64) 2 2 rd 0x03)
  | 4 =>
    if fld h 12 1 = 0 then
      (if rs2 = 0 then (if rd = 0 then none else some (encI 0 rd 0 0 0x67)) else some (encR 0 rs2 0 0 rd 0x33))
    else if rs2 = 0 then (if rd = 0 then some 0x00100073 else some (encI 0 rd 0 1 0x67))
    else some (encR 0 rs2 rd 0 rd 0x33)
  | 6 => some (encS (fld h 9 4 * 4 + fld h 7 2 * 64) rs2 2 2)
  | _ => none

/-- The base instruction that a compressed one stands for; none if it is illegal. -/
def rvcExpand (h : Nat) : Option Nat :=
  match h % 4 with
  | 0 => rvc0 h
  | 1 => rvc1 h
  | 2 => rvc2 h
  | _ => none

/-! ## CSRs (08 R340) -/

def csrRead (s : State) (k n : Nat) : Option W32 :=
  let kp := s.keeper k
  match n with
  | 0x300 => some (BitVec.ofNat 32 (b2n kp.mstatusMie * 8 + b2n kp.mstatusMpie * 128 + 0x1800))
  | 0x301 => some 0x40001104
  | 0x304 => some (BitVec.ofNat 32 (b2n kp.meie * 2048 + b2n kp.mtie * 128))
  | 0x305 => some kp.mtvec
  | 0x320 => some (BitVec.ofNat 32 (b2n kp.inhibitCy + b2n kp.inhibitIr * 4))
  | 0x340 => some kp.mscratch
  | 0x341 => some kp.mepc
  | 0x342 => some kp.mcause
  | 0x343 => some kp.mtval
  | 0x344 => some (BitVec.ofNat 32 (b2n (meip s k) * 2048 + b2n (mtip s k) * 128))
  | 0xB00 | 0xC00 => some (kp.mcycle.setWidth 32)
  | 0xB80 | 0xC80 => some ((kp.mcycle >>> 32).setWidth 32)
  | 0xB02 | 0xC02 => some (kp.minstret.setWidth 32)
  | 0xB82 | 0xC82 => some ((kp.minstret >>> 32).setWidth 32)
  | 0xC01 => some (BitVec.ofNat 32 (mtime s))
  | 0xC81 => some (BitVec.ofNat 32 (mtime s / 2 ^ 32))
  | 0xF11 | 0xF12 => some 0
  | 0xF13 => some 0xA1
  | 0xF14 => some (BitVec.ofNat 32 k)
  | _ => none

/-- A CSR that may be written: not one of the read-only numbers, nor misa. -/
def csrWritable (n : Nat) : Bool := fld n 10 2 != 3 && n != 0x301

def csrWrite (s : State) (k n : Nat) (v : W32) : State :=
  let kp := s.keeper k
  let w := v.setWidth 64
  let kp := match n with
    | 0x300 => { kp with mstatusMie := bitAt v 3, mstatusMpie := bitAt v 7 }
    | 0x304 => { kp with meie := bitAt v 11, mtie := bitAt v 7 }
    | 0x305 => { kp with mtvec := v }
    | 0x320 => { kp with inhibitCy := bitAt v 0, inhibitIr := bitAt v 2 }
    | 0x340 => { kp with mscratch := v }
    | 0x341 => { kp with mepc := v &&& 0xFFFFFFFE#32 }
    | 0x342 => { kp with mcause := v }
    | 0x343 => { kp with mtval := v }
    | 0xB00 => { kp with mcycle := (kp.mcycle >>> 32) <<< 32 ||| w }
    | 0xB80 => { kp with mcycle := (kp.mcycle &&& 0xFFFFFFFF#64) ||| (w <<< 32) }
    | 0xB02 => { kp with minstret := (kp.minstret >>> 32) <<< 32 ||| w }
    | 0xB82 => { kp with minstret := (kp.minstret &&& 0xFFFFFFFF#64) ||| (w <<< 32) }
    | _ => kp
  s.setKeeper k kp

/-! ## Execution -/

def xr (s : State) (k i : Nat) : W32 := if i = 0 then 0 else tget 0 (s.keeper k).regs i
/-- A write to register `i`; x0 discards it. -/
def setX (s : State) (k i : Nat) (v : W32) : State :=
  if i = 0 then s else s.setKeeper k { s.keeper k with regs := tput 0 (s.keeper k).regs i v }

/-- What an executed instruction leaves: the state with the next pc and whether minstret counts it; an exception; or no
progress. -/
inductive Done where
  | next (s : State) (pc : W32) (counts : Bool)
  | trap (cause tval : Nat) (s : State)
  | stall

/-- Signed division and remainder with the architecture's results for 0 and for overflow. -/
def divS (a b : W32) : W32 := if b = 0 then BitVec.allOnes 32 else BitVec.ofInt 32 (a.toInt.tdiv b.toInt)
def remS (a b : W32) : W32 := if b = 0 then a else BitVec.ofInt 32 (a.toInt.tmod b.toInt)
def divU (a b : W32) : W32 := if b = 0 then BitVec.allOnes 32 else BitVec.ofNat 32 (a.toNat / b.toNat)
def remU (a b : W32) : W32 := if b = 0 then a else BitVec.ofNat 32 (a.toNat % b.toNat)

/-- OP and OP-IMM. -/
def rvAlu (f3 : Nat) (alt : Bool) (a b : W32) : W32 :=
  let sh := b.toNat % 32
  match f3 with
  | 0 => if alt then a - b else a + b
  | 1 => a <<< sh
  | 2 => if a.toInt < b.toInt then 1 else 0
  | 3 => if a.toNat < b.toNat then 1 else 0
  | 4 => a ^^^ b
  | 5 => if alt then a.sshiftRight sh else a >>> sh
  | 6 => a ||| b
  | _ => a &&& b

def rvMul (f3 : Nat) (a b : W32) : W32 :=
  match f3 with
  | 0 => a * b
  | 1 => BitVec.ofInt 32 (a.toInt * b.toInt / 2 ^ 32)
  | 2 => BitVec.ofInt 32 (a.toInt * b.toNat / 2 ^ 32)
  | 3 => BitVec.ofNat 32 (a.toNat * b.toNat / 2 ^ 32)
  | 4 => divS a b
  | 5 => divU a b
  | 6 => remS a b
  | _ => remU a b

/-- Branch conditions; none for the two reserved ones. -/
def rvCond (f3 : Nat) (a b : W32) : Option Bool :=
  match f3 with
  | 0 => some (a == b)
  | 1 => some (a != b)
  | 4 => some (decide (a.toInt < b.toInt))
  | 5 => some (decide (b.toInt ≤ a.toInt))
  | 6 => some (decide (a.toNat < b.toNat))
  | 7 => some (decide (b.toNat ≤ a.toNat))
  | _ => none

def immI (w : Nat) : W32 := BitVec.ofNat 32 (sext (fld w 20 12) 12 32)
def immS (w : Nat) : W32 := BitVec.ofNat 32 (sext (fld w 25 7 * 32 + fld w 7 5) 12 32)
def immB (w : Nat) : W32 := BitVec.ofNat 32 (sext (fld w 31 1 * 4096 + fld w 7 1 * 2048 + fld w 25 6 * 32 + fld w 8 4 * 2) 13 32)
def immU (w : Nat) : W32 := BitVec.ofNat 32 (fld w 12 20 * 4096)
def immJ (w : Nat) : W32 :=
  BitVec.ofNat 32 (sext (fld w 31 1 * 2 ^ 20 + fld w 12 8 * 4096 + fld w 20 1 * 2048 + fld w 21 10 * 2) 21 32)

/-- An illegal instruction (08 R340, R341). -/
def illegal (s : State) : Done := .trap 2 0 s

/-- A load: width and whether it extends the sign, by funct3. -/
def loadKind : Nat → Option (Nat × Bool)
  | 0 => some (1, true)
  | 1 => some (2, true)
  | 2 => some (4, false)
  | 4 => some (1, false)
  | 5 => some (2, false)
  | _ => none

def doLoad (s : State) (k rd a n : Nat) (signed : Bool) (pc : W32) : Done :=
  match kLoad s k a n with
  | .ok v s => .next (setX s k rd (BitVec.ofNat 32 (if signed then sext v (8 * n) 32 else v))) pc true
  | .fault c t s => .trap c t s
  | .stall => .stall

def doStore (s : State) (k a v n : Nat) (pc : W32) : Done :=
  match kStore s k a v n with
  | .ok _ s => .next s pc true
  | .fault c t s => .trap c t s
  | .stall => .stall

/-- A CSR instruction: `f3` 1-3 and 5-7; the register or immediate operand `src`, its field `z`. -/
def doCsr (s : State) (k n f3 rd z : Nat) (src : W32) (pc : W32) : Done :=
  match csrRead s k n with
  | none => illegal s
  | some old =>
    let writes := f3 % 4 == 1 || z != 0
    if writes && !csrWritable n then illegal s
    else
      let v := match f3 % 4 with | 1 => src | 2 => old ||| src | _ => old &&& ~~~src
      let s := if writes then csrWrite s k n v else s
      .next (setX s k rd old) pc (!(writes && (n == 0xB02 || n == 0xB82)))

/-- FENCE and FENCE.I wait until the store buffer is empty (08 R346, R347). -/
def doFence (s : State) (k : Nat) (i : Bool) : State :=
  let s := drainAll s k
  if i then s.setKeeper k { s.keeper k with stale := [] } else s

/-- WFI: the keeper stalls unless an enabled interrupt is pending. -/
def doWfi (s : State) (k : Nat) : State := s.setKeeper k { s.keeper k with wfi := !wakes s k }

/-- SYSTEM. -/
def rvSystem (s : State) (k w : Nat) (pc : W32) : Done :=
  let f3 := fld w 12 3
  let z := fld w 15 5
  if f3 = 0 then
    match w with
    | 0x00000073 => .trap 11 0 s
    | 0x00100073 => .trap 3 0 s
    | 0x30200073 => .next (trapReturn s k) (s.keeper k).mepc true
    | 0x10500073 => .next (doWfi s k) pc true
    | _ => illegal s
  else if f3 = 4 then illegal s
  else doCsr s k (fld w 20 12) f3 (fld w 7 5) z (if f3 < 4 then xr s k z else BitVec.ofNat 32 z) pc

/-- One 32-bit instruction word at `pc`, `len` bytes long as fetched. -/
def rvExec (s : State) (k w len : Nat) (pc : W32) : Done :=
  let f3 := fld w 12 3
  let f7 := fld w 25 7
  let rd := fld w 7 5
  let a := xr s k (fld w 15 5)
  let b := xr s k (fld w 20 5)
  let nx := pc + BitVec.ofNat 32 len
  match fld w 0 7 with
  | 0x37 => .next (setX s k rd (immU w)) nx true
  | 0x17 => .next (setX s k rd (pc + immU w)) nx true
  | 0x6F => .next (setX s k rd nx) (pc + immJ w) true
  | 0x67 => if f3 = 0 then .next (setX s k rd nx) ((a + immI w) &&& 0xFFFFFFFE#32) true else illegal s
  | 0x63 =>
    (match rvCond f3 a b with
     | some c => .next s (if c then pc + immB w else nx) true
     | none => illegal s)
  | 0x03 =>
    (match loadKind f3 with
     | some (n, sg) => doLoad s k rd (a + immI w).toNat n sg nx
     | none => illegal s)
  | 0x23 => if f3 < 3 then doStore s k (a + immS w).toNat b.toNat (2 ^ f3) nx else illegal s
  | 0x13 =>
    if (f3 = 1 ∧ f7 ≠ 0) ∨ (f3 = 5 ∧ f7 ≠ 0 ∧ f7 ≠ 0x20) then illegal s
    else .next (setX s k rd (rvAlu f3 (f3 == 5 && f7 == 0x20) a (immI w))) nx true
  | 0x33 =>
    if f7 = 1 then .next (setX s k rd (rvMul f3 a b)) nx true
    else if f7 = 0 ∨ (f7 = 0x20 ∧ (f3 = 0 ∨ f3 = 5)) then .next (setX s k rd (rvAlu f3 (f7 == 0x20) a b)) nx true
    else illegal s
  | 0x0F => if f3 < 2 then .next (doFence s k (f3 == 1)) nx true else illegal s
  | 0x73 => rvSystem s k w nx
  | _ => illegal s

/-! ## One instruction of a keeper -/

/-- The instruction at the keeper's pc: its 32-bit word (none if illegal as fetched) and length. -/
inductive Fetched where
  | word (w : Option Nat) (len : Nat) (s : State)
  | fault (cause tval : Nat) (s : State)

def fetchInstr (s : State) (k : Nat) : Fetched :=
  let a := (s.keeper k).pc.toNat
  match fetchParcel s k a with
  | .fault c t s => .fault c t s
  | .stall => .word none 2 s
  | .ok lo s =>
    if lo % 4 != 3 then .word (rvcExpand lo) 2 s
    else match fetchParcel s k ((a + 2) % 2 ^ 32) with
      | .fault c t s => .fault c t s
      | .stall => .word none 4 s
      | .ok hi s => .word (some (lo + hi * 65536)) 4 s

/-- The instruction retires: pc and minstret. -/
def retire (s : State) (k : Nat) (pc : W32) (counts : Bool) : State :=
  let kp := s.keeper k
  s.setKeeper k { kp with pc := pc, minstret := if counts && !kp.inhibitIr then kp.minstret + 1 else kp.minstret }

/-- The keeper executes the instruction at its pc if `is` names its word; a fetch that faults is an exception. -/
def keeperExec (s : State) (k : Nat) (is : Nat → Bool) : State :=
  let pc := (s.keeper k).pc
  match fetchInstr s k with
  | .fault c t t' => takeException t' k c t
  | .word none _ t => if is 0 then takeException t k 2 0 else s
  | .word (some w) len t =>
    if !is w then s
    else match rvExec t k w len pc with
      | .next u nx c => pwrCheck (retire u k nx c)
      | .trap c v u => takeException u k c v
      | .stall => s

/-- One step of a keeper. -/
def keeperStep (s : State) (k : Nat) (is : Nat → Bool) : State :=
  if !keeperRuns s k then s
  else
    let s' := wfiLeave s k
    if keeperActs s' k then keeperExec s' k is else s'

/-- The instruction is an MRET, a WFI, a FENCE or FENCE.I. -/
def isMret (w : Nat) : Bool := w == 0x30200073
def isWfi (w : Nat) : Bool := w == 0x10500073
def isFence (w : Nat) : Bool := fld w 0 7 == 0x0F && fld w 12 3 < 2

/-- A keeper takes an interrupt: the KIC's before the machine timer's (08 R341). -/
def takeInterrupt (s : State) (k : Nat) : State :=
  let kp := s.keeper k
  let s' := wfiLeave s k
  if !(keeperActs s' k && kp.mstatusMie && wakes s k) then s
  else
    let c : W32 := if meip s k && kp.meie then 0x8000000B else 0x80000007
    trapEnter s' k kp.pc c 0 true

end Sys2Proof.Machine
end

