-- ==== Sys2Proof/Machine/Loader.lean ====
section
/-! DEFINITION. The loader: the image's header and sections, absent units, the choice of a slot, and the start-up sequence
(12 R503-R520; 14 R570-R576). -/
namespace Sys2Proof.Machine

/-! ## The image (12 R505-R511) -/

/-- CRC-32 of IEEE 802.3 (12 R507). -/
def crc32Bit (c : W32) : W32 := if bitAt c 0 then (c >>> 1) ^^^ 0xEDB88320#32 else c >>> 1
def crc32Byte (c : W32) (b : Byte) : W32 := (List.range 8).foldl (fun c _ => crc32Bit c) (c ^^^ b.setWidth 32)
def crc32 (bs : List Byte) : W32 := ~~~(bs.foldl crc32Byte 0xFFFFFFFF)

/-- A little-endian value of a list of bytes. -/
def leNat : List Byte → Nat
  | [] => 0
  | b :: bs => b.toNat + 256 * leNat bs
/-- The `n` bytes at offset `o`, as a value. -/
def leAt (bs : List Byte) (o n : Nat) : Nat := leNat ((bs.drop o).take n)

/-- An entry of the section table. -/
structure Sect where
  ty : Nat
  off : Nat
  len : Nat
  deriving DecidableEq, Repr

/-- A header as the loader uses it. -/
structure Header where
  len : Nat
  seq : Nat
  lenient : Bool
  cap : List Nat
  sects : List Sect
  kept : ImgHeader
  deriving DecidableEq, Repr

def readSect (h : List Byte) (i : Nat) : Sect := ⟨leAt h (0x40 + 12 * i) 2, leAt h (0x44 + 12 * i) 4, leAt h (0x48 + 12 * i) 4⟩

def readHeader (h : List Byte) : Header :=
  { len := leAt h 0x04 4, seq := leAt h 0x0C 4, lenient := leAt h 0x10 2 % 2 == 1,
    cap := [leAt h 0x14 2, leAt h 0x16 2, leAt h 0x18 2, leAt h 0x1A 2],
    sects := (List.range (leAt h 0x12 1)).map (readSect h),
    kept := { entry := [0, 1, 2, 3].foldl (fun t k => tput 0 t k (BitVec.ofNat 32 (leAt h (0x1C + 4 * k) 4))) [],
              epage := leAt h 0x13 1, twr := leAt h 0x2C 2, huC := leAt h 0x2E 2, huDiv := leAt h 0x30 2,
              huVmin := leAt h 0x32 2, huPwr := leAt h 0x34 2, huMargin := leAt h 0x36 2, permit := leAt h 0x38 4 } }

/-- The end of HCRC. -/
def headEnd (n : Nat) : Nat := 0x44 + 12 * n

/-- The fixed fields hold what R505 permits, and the header check matches. -/
def headFixed (h : List Byte) : Bool :=
  let n := leAt h 0x12 1
  let len := leAt h 4 4
  leAt h 0 2 == 0xC61E && leAt h 2 2 == 1 && len % 4 == 0 && decide (0x100 ≤ len) && decide (len ≤ 0x30000) &&
  decide (1 ≤ n) && decide (n ≤ 8) && decide (leAt h 0x13 1 ≤ 2) &&
  (crc32 (h.take (0x40 + 12 * n))).toNat == leAt h (0x40 + 12 * n) 4

/-- The spans of two sections with their trailers do not overlap. -/
def apart (a b : Sect) : Bool := decide (a.off + a.len + 8 ≤ b.off) || decide (b.off + b.len + 8 ≤ a.off)

def sectOk (h : Header) (x : Sect) : Bool :=
  decide (1 ≤ x.ty) && decide (x.ty ≤ 5) && decide (x.off ≠ 0) && decide (x.len ≠ 0) && x.off % 4 == 0 && x.len % 4 == 0 &&
  decide (headEnd h.sects.length ≤ x.off) && decide (x.off + x.len + 8 ≤ h.len) &&
  (x.ty != 2 || (x.off == 0x20000 && decide (512 ≤ x.len) && decide (x.len ≤ 65528)))

/-- Types appear at most once and spans do not overlap. -/
def sectsApart : List Sect → Bool
  | [] => true
  | x :: xs => xs.all (fun y => y.ty != x.ty && apart x y) && sectsApart xs

def findSect (h : Header) (ty : Nat) : Option Sect := h.sects.find? (fun x => x.ty == ty)

/-- The entry address of a present keeper is even and lies in the keeper code section. -/
def entryOk (h : Header) (k : Nat) : Bool :=
  let a := (tget 0 h.kept.entry k).toNat
  a % 2 == 0 && (match findSect h 1 with | some x => decide (x.off ≤ a) && decide (a < x.off + x.len) | none => false)

/-- The header is valid (12 R508). -/
def headerOk (s : State) (bs : List Byte) : Bool :=
  let h := readHeader bs
  headFixed bs && h.sects.all (sectOk h) && sectsApart h.sects && (findSect h 1).isSome && (findSect h 2).isSome &&
  (List.range (nKeepers s)).all (entryOk h)

/-- The bytes of a section. -/
def sectBytes (img : List Byte) (x : Sect) : List Byte := (img.drop x.off).take x.len

/-- A section's trailer matches (12 R506). -/
def trailerOk (img : List Byte) (x : Sect) : Bool :=
  leAt img (x.off + x.len) 4 == (crc32 (sectBytes img x)).toNat && leAt img (x.off + x.len + 4) 2 == x.ty &&
  leAt img (x.off + x.len + 6) 2 == 0x5EC7

/-- A coefficient of 4 bytes, in range. -/
def readCoefs : Nat → List Byte → Option (List Int × List Byte)
  | 0, bs => some ([], bs)
  | n + 1, bs =>
    let v := (BitVec.ofNat 32 (leAt bs 0 4)).toInt
    if bs.length < 4 ∨ v < -131072 ∨ 131071 < v then none
    else match readCoefs n (bs.drop 4) with
      | some (vs, rest) => some (v :: vs, rest)
      | none => none

/-- The coefficient sets of section 3: the sets fill it. -/
def readSets : Nat → List Byte → Option (List (List Int))
  | 0, bs => if bs = [] then some [] else none
  | n + 1, bs =>
    let taps := leAt bs 0 2
    if bs.length < 4 ∨ taps % 2 ≠ 0 ∨ taps < 2 ∨ 128 < taps then none
    else match readCoefs (taps / 2) (bs.drop 4) with
      | some (vs, rest) => (match readSets n rest with | some ss => some (vs :: ss) | none => none)
      | none => none

/-- An entry of the stream plan (12 R510). -/
structure PlanEntry where
  stream : Fin 256
  grp : Nat
  tag : Nat
  ctrl : Nat
  pages : Nat
  wm : Nat
  deriving DecidableEq, Repr

def planOk (p : PlanEntry) : Bool :=
  decide (p.grp ≤ 4) && decide (1 ≤ p.tag) && (if fld p.ctrl 12 3 = 5 then p.pages == 0 else decide (1 ≤ p.pages) && decide (p.pages ≤ 8192))

def readPlan : Nat → List Byte → Option (List PlanEntry)
  | 0, bs => if bs = [] then some [] else none
  | n + 1, bs =>
    let p : PlanEntry := ⟨streamFin (leAt bs 0 1), leAt bs 1 1, leAt bs 2 1, leAt bs 4 2, leAt bs 6 2, leAt bs 8 4⟩
    if bs.length < 16 ∨ planOk p = false then none
    else match readPlan n (bs.drop 16) with
      | some ps => some (p :: ps)
      | none => none

/-- An entry of the register initialisation list: address and value. -/
def listOk (e : Nat × Nat) : Bool :=
  let blk := regBlock e.1
  e.1 % 2 == 0 && decide (0x40000000 ≤ e.1) && decide (e.1 ≤ 0x40015FFE) && blk != 3 && blk != 4 && blk != 5 &&
  e.1 != regAddr 6 0x000 && e.1 != regAddr 13 0x200

def readList : Nat → List Byte → Option (List (Nat × Nat))
  | 0, bs => if bs = [] then some [] else none
  | n + 1, bs =>
    let e := (leAt bs 0 4, leAt bs 4 2)
    if bs.length < 8 ∨ listOk e = false then none
    else match readList n (bs.drop 8) with
      | some es => some (e :: es)
      | none => none

/-- What sections 3, 4 and 5 hold. -/
structure Content where
  sets : List (List Int) := []
  plan : List PlanEntry := []
  list : List (Nat × Nat) := []
  deriving DecidableEq, Repr

/-- The bytes of a section that may be missing. -/
def optSect (img : List Byte) (h : Header) (ty : Nat) : Option (List Byte) := (findSect h ty).map (sectBytes img)

def sectSets (bs : Option (List Byte)) : Option (List (List Int)) :=
  match bs with
  | none => some []
  | some b => if b.length < 4 ∨ 32 < leAt b 0 2 then none else readSets (leAt b 0 2) (b.drop 4)
def sectPlan (bs : Option (List Byte)) : Option (List PlanEntry) :=
  match bs with
  | none => some []
  | some b => if b.length < 4 then none else readPlan (leAt b 0 2) (b.drop 4)
def sectList (bs : Option (List Byte)) : Option (List (Nat × Nat)) :=
  match bs with
  | none => some []
  | some b => if b.length % 8 ≠ 0 then none else readList (b.length / 8) b

/-- The sections' formats are valid (12 R511): what they hold. -/
def readContent (img : List Byte) (h : Header) : Option Content :=
  match sectSets (optSect img h 3), sectPlan (optSect img h 4), sectList (optSect img h 5) with
  | some a, some b, some c =>
    if noDup (b.map (fun p => p.stream.val)) && decide ((b.map (·.pages)).sum ≤ 8192) then some ⟨a, b, c⟩ else none
  | _, _, _ => none

/-! ## Absent units (01 R51; 12 R512, R513) -/

/-- The bits of a register that serve present instances. -/
def presentMask (s : State) (blk off : Nat) : Nat :=
  if unitAbsent s blk off then 0
  else match blk, off with
    | 2, 0x008 => bankMask s
    | 10, 0x010 | 10, 0x014 | 10, 0x018 | 10, 0x01C => min 65535 (2 ^ nPods s - 1)
    | 12, 0x300 | 13, 0x018 => 65535 - (16 - 2 ^ nKeepers s)
    | 16, 0x006 | 16, 0x008 => 2 ^ nVouts s - 1
    | _, _ => 65535

/-- The fields of the capability words that are compared: word, lowest bit, length. -/
def capFields : List (Nat × Nat × Nat) := [(0, 5, 2), (0, 4, 1), (0, 2, 2), (0, 0, 2), (1, 8, 6), (1, 0, 8), (2, 0, 5)]

/-- Cases one and two of R512. -/
def capCases (s : State) (cap : List Nat) : Nat :=
  (capFields.filter (fun f => decide (fld (capWord s.variant f.1) f.2.1 f.2.2 < fld (nth 0 cap f.1) f.2.1 f.2.2))).length +
  b2n ((List.range 4).any (fun k => (nth 0 cap 3).testBit k && !(capWord s.variant 3).testBit k))

/-- A list entry of case three. -/
def listAbsent (s : State) (e : Nat × Nat) : Bool := presentMask s (regBlock e.1) (regOff e.1) == 0
/-- A list entry of case three or four. -/
def listCase (s : State) (e : Nat × Nat) : Bool :=
  listAbsent s e || (List.range 16).any (fun b => e.2.testBit b && !(presentMask s (regBlock e.1) (regOff e.1)).testBit b)

/-- FREE pages of a bank group (4: any). -/
def freeOf (s : State) (grp : Nat) : Nat :=
  (((List.range (nPages s)).drop 16).filter (fun p => (s.page p).st == .free && (decide (4 ≤ grp) || pageGroup s p == grp))).length

/-- Plan entries' pages are taken in order where they fit: what each entry gets (`none`: it does not fit). -/
def takePages (s : State) (p : PlanEntry) : Nat → List Nat × State
  | 0 => ([], s)
  | n + 1 =>
    let r := allocate s p.grp p.tag
    let t := takePages r.2 p n
    (r.1.toNat :: t.1, t.2)

def planFits (s : State) (p : PlanEntry) : Bool := decide (p.pages ≤ freeOf s p.grp)

/-- Case five: entries that do not fit, after those before them have taken theirs. -/
def planCases (s : State) : List PlanEntry → Nat
  | [] => 0
  | p :: ps => if planFits s p then planCases (takePages s p p.pages).2 ps else 1 + planCases s ps

/-- Every case of R512, and the first list address among them. -/
def absentCases (s : State) (h : Header) (c : Content) : Nat × Nat :=
  let hits := c.list.filter (listCase s)
  (capCases s h.cap + hits.length + (if s.rst.cold then planCases s c.plan else 0), match hits with | e :: _ => e.1 | [] => 0)

/-! ## The choice of a slot (12 R514-R517) -/

/-- An SCL period of the EEPROM's bus in nominal BUS_CLK cycles: LINK_CLK has no spread (12 R495). -/
def sclCycles : Nat := 112

def slotBase (i : Nat) : Nat := 0x30000 * i
def readFailOf (m : StartIn) (i : Nat) : Option ReadFail := if i = 0 then m.readA else m.readB
def errReason (e : EepErr) : Nat := match e with | .noack => 2 | .busStuck => 7

/-- X is newer than Y. -/
def seqNewer (x y : Nat) : Bool :=
  let d := (x + 2 ^ 32 - y) % 2 ^ 32
  decide (1 ≤ d) && decide (d ≤ 2 ^ 31 - 1)

/-- The reason that a slot's header gives, 0 if it is valid. -/
def headReason (s : State) (m : StartIn) (i : Nat) : Nat :=
  match readFailOf m i with
  | some f => if f.read = 0 then errReason f.err else if headerOk s (eepRead s (slotBase i) 0x100) then 0 else 1
  | none => if headerOk s (eepRead s (slotBase i) 0x100) then 0 else 1

def slotHeader (s : State) (i : Nat) : Header := readHeader (eepRead s (slotBase i) 0x100)

/-- The slots with valid headers, in the order in which they are tried. -/
def slotOrder (s : State) (m : StartIn) : List Nat :=
  let ok := [0, 1].filter (fun i => headReason s m i == 0)
  if ok = [0, 1] ∧ seqNewer (slotHeader s 1).seq (slotHeader s 0).seq = true then [1, 0] else ok

/-- SCL periods of step 5 for an image of `len` bytes (12 R497, R518). -/
def imageScl (len : Nat) : Nat :=
  let n := len - 0x100
  n / 256 * 2343 + (if n % 256 = 0 then 0 else 39 + 9 * (n % 256))

/-- The read of slot `i` that fails sets its fault and the address of the transaction (12 R532, R533). -/
def slotReadFails (s : State) (i : Nat) (f : ReadFail) : State :=
  let s := imgFlag s (match f.err with | .noack => 2 | .busStuck => 3)
  { s with img := { s.img with faddr := BitVec.ofNat 19 (slotBase i + 256 * f.read.val) } }

/-- The reads of slot `i` that fail: the header's if `head` is true, else a later one's. -/
def slotReads (s : State) (m : StartIn) (i : Nat) (head : Bool) : State :=
  match readFailOf m i with
  | some f => if (f.read == 0) == head then slotReadFails s i f else s
  | none => s

/-- A slot is tried: the reason of its failure, or what it holds with its cases of R512. -/
def trySlot (s : State) (m : StartIn) (i : Nat) : Nat × Option (Header × List Byte × Content × Nat × Nat) :=
  let h := slotHeader s i
  match readFailOf m i with
  | some f => (errReason f.err, none)
  | none =>
    let img := eepRead s (slotBase i) h.len
    if !h.sects.all (trailerOk img) then (3, none)
    else match readContent img h with
      | none => (4, none)
      | some c =>
        let a := absentCases s h c
        if a.1 ≠ 0 ∧ h.lenient = false then (5, none) else (0, some (h, img, c, a))

def setReason (s : State) (i r : Nat) : State :=
  if i = 0 then { s with img := { s.img with reasonA := BitVec.ofNat 4 r } } else { s with img := { s.img with reasonB := BitVec.ofNat 4 r } }

/-- SAFE state is entered (14 R574, R576). -/
def safeEnter (s : State) (cause : Nat) : State :=
  { s with integ := { s.integ with safe := true, safeCause := BitVec.ofNat 2 cause }, tw := { s.tw with alert := true },
           rst := { s.rst with startUpDue := false } }

/-! ## Steps 6 to 9 (12 R518-R520) -/

/-- Ring-table entries from `i` on. -/
def ringFill (s : State) (i : Nat) : List Nat → State
  | [] => s
  | p :: ps => ringFill { s with ss := { s.ss with ring := tput 0 s.ss.ring i (BitVec.ofNat 13 p) } } (i + 1) ps

/-- A plan entry is set up; `x.2` is the next ring-table entry. -/
def planSet (x : State × Nat) (p : PlanEntry) : State × Nat :=
  let s := passCycles x.1 32
  if !planFits s p then (s, x.2)
  else
    let t := takePages s p p.pages
    let s := ringFill (passCycles t.2 (4 * p.pages)) x.2 t.1
    let n := p.stream.val
    let s := s.setStrm n { s.strm n with rbase := BitVec.ofNat 13 x.2, rlen := BitVec.ofNat 14 p.pages, wm := BitVec.ofNat 32 p.wm }
    let s := ctrlWrite s n (p.ctrl % 32768)
    if p.ctrl < 32768 then (s, x.2 + p.pages)
    else
      let s := ctrlWrite s n p.ctrl
      let s := armEnd (passCycles s (p.pages + 32)) n
      (if (s.strm n).armed then s else { s with img := { s.img with armFail := true } }, x.2 + p.pages)

/-- The leases in K0's name while the loader holds them. -/
def leasesHold (s : State) (on : Bool) : State :=
  let f (l : Lease) : Lease := { l with held := on, owner := 0 }
  { s with ss := { s.ss with lease := f s.ss.lease }, ce := { s.ce with lease := f s.ce.lease }, img := { s.img with lease := f s.img.lease } }

/-- A list entry is written in 8 cycles; entries of absent units and operations on the leases have no effect. An allocation's
result (04 R198) and the check of a stream that the entry arms (04 R203; DESIGN CHOICE, log 66) are there before the next. -/
def listWrite (s : State) (e : Nat × Nat) : State :=
  let t := if listAbsent s e || e.1 == regAddr 8 0x030 || e.1 == regAddr 11 0x010 then s else regWrite s .loader e.1 e.2
  let t := allocDone (passCycles t 8) 0
  if e.1 == regAddr 8 0x002 then armEnd t (t.keeper 0).ssDsel.toNat else t

/-- Steps 6 to 9. -/
def startSteps (s : State) (c : Content) : State :=
  let s := leasesHold s true
  let s := if s.rst.cold then (c.plan.foldl planSet (s, 0)).1 else { s with img := { s.img with planSkipped := true } }
  let s := leasesHold (c.list.foldl listWrite s) false
  let s := feStart { s with fe := { s.fe with run := true } }
  let s := keeperStart s 0
  { s with rst := { s.rst with loaded := true, startUpDue := false, warm := s.rst.warm || !s.rst.cold } }

/-- The chosen slot is loaded (12 R504, R530). -/
def slotLoad (s : State) (i : Nat) (h : Header) (img : List Byte) (c : Content) (cases first : Nat) : State :=
  { s with iram := tabFrom memDefault 0 img, iramBad := [],
           dc := { s.dc with sets := BitVec.ofNat 6 c.sets.length, coefs := tabFrom [] 0 c.sets },
           img := { s.img with slot := BitVec.ofNat 2 (i + 1), seq := BitVec.ofNat 32 h.seq, len := BitVec.ofNat 32 h.len, hdr := h.kept,
                               warn := decide (cases ≠ 0), absCnt := BitVec.ofNat 16 (min cases 65535),
                               absAddr := BitVec.ofNat 32 first } }

/-- Slots are tried in order. -/
def trySlots (s : State) (m : StartIn) (from_ : Nat) : List Nat → State
  | [] =>
    let s := { s with img := { s.img with noImage := true, loadMs := BitVec.ofNat 16 (min ((s.now - from_) / msCycles) 65535) } }
    safeEnter s 2
  | i :: rest =>
    let s := if (readFailOf m i).isSome then slotReads s m i false else passTime s (s.now + sclCycles * imageScl (slotHeader s i).len)
    match trySlot s m i with
    | (_, some (h, img, c, cases, first)) =>
      let s := slotLoad s i h img c cases first
      startSteps { s with img := { s.img with loadMs := BitVec.ofNat 16 (min ((s.now - from_) / msCycles) 65535) } } c
    | (r, none) =>
      let s := setReason s i r
      trySlots { s with img := { s.img with fallback := true } } m from_ rest

/-! ## The sequence (12 R518; 14 R570-R574, R583, R603) -/

/-- Step 2: the fuses are read. -/
def fuseStep (s : State) (fused : List Nat) : State :=
  let i := mendFuses s.integ
  let left := (List.range (nBanks s)).foldl (fun t b =>
    tput 64 t b (64 - (fused.filter (fun x => x / 2048 == b)).length)) []
  passCycles { s with integ := { i with sparesFused := left, fused := fused } } 4096

/-- Step 3: boot BIST ends; the links begin to answer. -/
def bistStep (s : State) (m : StartIn) : State :=
  let s := passCycles s m.bistCycles
  let pair := if s.rst.cold then 0 else s.rst.count.toNat % nPairs s
  let i := s.integ
  let r : Nat × Nat := match m.bist with | .pass => (0, 0) | .imageRam a => (1, a) | .workingRam a => (2, a) | .chain => (3, 0)
  { s with iram := [], iramBad := [], wramBad := [], rst := { s.rst with linksUp := true },
           integ := { i with bootResult := BitVec.ofNat 3 r.1, bootAddr := BitVec.ofNat 32 r.2, bootChain := BitVec.ofNat 8 pair } }

/-- Step 4 on. -/
def loadStep (s : State) (m : StartIn) : State :=
  if hallmark s = 3 then safeEnter (setReason (setReason s 0 8) 1 8) 3
  else
    let from_ := s.now
    let s := passTime s (s.now + sclCycles * 4686 + m.lostCycles)
    let s := slotReads (slotReads s m 0 true) m 1 true
    let s := setReason (setReason s 0 (headReason s m 0)) 1 (headReason s m 1)
    trySlots s m from_ (slotOrder s m)

/-- The start-up sequence can run: reset is released and the PLL is locked. -/
def startUpReady (s : State) : Bool :=
  s.rst.startUpDue && !s.rst.pending && !s.rst.heldByNrst && !s.rst.porHeld && (s.rst.cold || s.pwr.pllLock)

/-- The start-up sequence. -/
def startUp (s : State) (m : StartIn) : State :=
  if !startUpReady s then s
  else
    let s := if s.rst.cold then clocksStart { s with pwr := { s.pwr with pllLock := true }, fe := { s.fe with clkFrom := nextPer s } } else s
    let s := bistStep (fuseStep s m.fused) m
    if m.bist != .pass then safeEnter s 1 else loadStep s m

end Sys2Proof.Machine
end

