-- ==== Sys2Proof/Machine/Port.lean ====
section
/-! DEFINITION. What a cut-off or a refusal does to the port's unit (05 R233-R237). -/
namespace Sys2Proof.Machine

/-- The keeper's access ends with the access fault of its kind (01 R40); a keeper in debug halt meets it as it resumes. -/
def accessFault (s : State) (k : Nat) (q : ArbRequest) : State :=
  if (s.keeper k).run then takeException s k (if q.write then 7 else 5) (winBase + q.page.val * 4096 + q.start.val * 2) else s

/-- The groups that the words of a record that is to be written next to its stream lie in. -/
def recGroups (s : State) (r : Rec) : List Nat :=
  let st := s.strm r.stream
  (List.range r.words.length).map (fun i => pageGroup s (posWord s st (st.head + i) / 2048))

/-- A complete record of the decimation writer is discarded: the first that has words in the group. -/
def readyLost (s : State) (g : Nat) : State :=
  match s.ss.ready.find? (fun r => (recGroups s r).any (fun h => h == g)) with
  | some r => writeUnitAs { s with ss := { s.ss with ready := s.ss.ready.erase r } } 0 true r
  | none => s

/-- The word that the group's scrubber was to read is skipped. -/
def scrubSkips (s : State) (g : Nat) : State :=
  let pos := tget 0 s.ss.scrubPos g
  if !s.ss.scrubEn || groupWords s ≤ pos then s
  else { s with ss := { s.ss with scrubPos := tput 0 s.ss.scrubPos g (pos + 1) } }

/-- The effect of a cut-off or refusal of port `p` at group `g` on the request `q`; the port's block bit is set. -/
def portEffect (s : State) (g p : Nat) (q : ArbRequest) : State :=
  match p with
  | 0 => readyLost s g
  | 1 => if q.write then wqWriteNow s else fetchRecord s
  | 2 => accessFault s 0 q
  | 3 => accessFault s 1 q
  | 4 => accessFault s 2 q
  | 5 => accessFault s 3 q
  | 6 => bcRefused s
  | 7 => twRefused s
  | 8 => writeFrame s
  | 9 => scrubSkips s g
  | 10 => memAbandon s
  | _ => s

/-- The hold limit ends the grant at group `g` (05 R233), `moved` words of its request having moved: the row is no event where
another number has (log 25). -/
def holdCut (s : State) (g moved : Nat) : State :=
  let a := s.agrp g
  match a.grant with
  | some b => if arbCuttable a && moved == cutMoved b (grantReq a b) then portEffect (arbCut s g b) g b.owner (grantReq a b) else s
  | none => s

/-- The request of a blocked port at group `g` is refused in the cycle after it was raised; one that its port has dropped by
then, or that is no longer blocked, is not (05 R236, R246). -/
def arbRefuse (s : State) (g p : Nat) : State :=
  match arbRefusable s g p with
  | none => s
  | some r =>
    let s := passBus s (r.at_ + 1)
    let a := s.agrp g
    if (arbRefusable s g p).isSome then portEffect (s.setAgrp g { a with reqs := tput none a.reqs p none }) g p r.q else s

end Sys2Proof.Machine
end

