-- ==== Sys2Proof/Machine/Operands.lean ====
section
/-! DEFINITION. Which operands a command may carry: those that the hub or what lies around it can present. A command with
others is no command of the hub and is refused by name. Also the addresses of the registers that have a row of their own. -/
namespace Sys2Proof.Machine

/-- A command's outcome: its effect, or the refusal of ill-formed operands. -/
def done (ok : Bool) (name : String) (t : State) : Host.Outcome State Fault Refusal :=
  if ok then .next t else .refused (.illFormed name)

/-- The address of a register (01 R47). -/
def regOk (a : W32) : Bool := regValid a.toNat
/-- The address is the lowest part of a wide value (00 R25). -/
def lowPart (a : W32) : Bool :=
  regOk a && (match unitWide (regBlock a.toNat) (regOff a.toNat) with | some (lo, _) => regOff a.toNat == lo | none => false)
/-- The address is the highest part of a wide value (00 R27). -/
def highPart (a : W32) : Bool :=
  regOk a && (match unitWide (regBlock a.toNat) (regOff a.toNat) with | some (lo, n) => regOff a.toNat == lo + 2 * (n - 1) | none => false)

/-- A value for each pair, in 16 bits. -/
def swapInOk (m : SwapIn) : Bool :=
  m.current.length == 192 && m.current.all (fun c => decide (c < 65536)) && decide (m.vex < 65536) && decide (m.ratioRef < 65536)
/-- 64 modulator bits for each pair. -/
def bitsOk (b : List (BitVec 64)) : Bool := b.length == 192
/-- A current for each loop. -/
def tickInOk (m : TickIn) : Bool :=
  m.loop.length == 8 && m.loop.all (fun c => decide (c < 65536)) && decide (m.holdup < 65536)
/-- 1-16 words of one page, and the words of a write (05 R221). -/
def requestOk (q : ArbRequest) : Bool :=
  decide (1 ≤ q.len) && decide (q.len ≤ 16) && decide (q.start.val + q.len ≤ 2048) && q.data.length == (if q.write then q.len else 0)
/-- LEN of a frame that is not discarded (10 R434). -/
def payloadOk (p : List Byte) : Bool := decide (p.length ≤ 240)
/-- Request types that the hub serves (10 R441). -/
def servedTypes : List Nat := [0x01, 0x02, 0x03, 0x04, 0x05, 0x06, 0x07, 0x08, 0x09, 0x0A, 0x0B, 0x0E, 0x0F, 0x10]
/-- A type that no request of R441 has. -/
def unknownType (t : Byte) : Bool := !servedTypes.any (fun x => x == t.toNat)
/-- The commands of the two-wire port (11 R474). -/
def twCmds : List Nat := [0x01, 0x02, 0x03, 0x04, 0x05, 0x06, 0x07, 0x08, 0x09, 0x0A, 0x0B, 0x0F, 0x20, 0x21]
/-- The reads that take arguments, and how many bytes (11 R474). -/
def twReadArgs : List (Nat × Nat) := [(0x02, 1), (0x03, 1), (0x04, 6), (0x07, 3), (0x08, 2), (0x0A, 4), (0x20, 1)]
/-- The protocol error fits its command (11 R477, R485). -/
def protoOk : TwProto → Bool
  | .unknownCmd c => !twCmds.any (fun x => x == c.toNat)
  | .badCount c n => (c == 0x09 && (decide (n.toNat < 2) || decide (240 < n.toNat))) || (c == 0x0B && (decide (n.toNat < 5) || decide (132 < n.toNat)))
  | .extraByte c _ => twCmds.any (fun x => x == c.toNat)
  | .shortArgs c args => twReadArgs.any (fun x => x.1 == c.toNat && decide (args.length < x.2))
/-- Boot BIST's duration is within its bound, its failing word in its memory, at most 64 rows of a bank
replaced by the fuses (12 R518; 14 R583). -/
def startInOk (m : StartIn) : Bool :=
  decide (m.bistCycles ≤ 2359296) && noDup m.fused && m.fused.all (fun x => decide (x < 32768)) &&
  (List.range 16).all (fun b => decide ((m.fused.filter (fun x => x / 2048 == b)).length ≤ 64)) &&
  (match m.bist with
   | .imageRam a => decide (a < iramSize)
   | .workingRam a => decide (wramBase ≤ a) && decide (a < wramBase + wramSize)
   | _ => true)
/-- The offsets that the debug module writes are in working RAM (14 R607). -/
def debugInOk (m : DebugIn) : Bool := m.wram.all (fun x => decide (x.1 < wramSize))
/-- A keeper that the release bits name (08 R385). -/
def targetOk (n : Fin 4) : Bool := n != 0
/-- A readout port (05 R240). -/
def readoutOk (p : Fin 12) : Bool := p == 6 || p == 7
/-- ARMED in a value for SS_D_CTRL. -/
def armedBit (v : Word) : Bool := bitAt v 15

/-- One BUS_CLK cycle passes and nothing is commanded; a POR holds the counter (13 R540; log 1). -/
def idleCycle (s : State) : State := if s.rst.porHeld then s else passTime s (s.now + 1)

end Sys2Proof.Machine
end

