-- ==== Sys2Proof/Machine/CmdReg.lean ====
section
/-! DEFINITION. Register commands that have no row of their own, and the keepers' commands (00 R16-R28; 08 R339-R360). -/
namespace Sys2Proof.Machine

/-- REGISTER_WRITE (00 R17). -/
def execRegisterWrite (r : Req) (addr : W32) (v : Word) (s : State) : Host.Outcome State Fault Refusal :=
  done (regOk addr) "REGISTER_WRITE" (writeReg s r addr.toNat v.toNat)
/-- WIDE_VALUE_LOW_READ (00 R26). -/
def execWideValueLowRead (r : Req) (addr : W32) (s : State) : Host.Outcome State Fault Refusal :=
  done (lowPart addr) "WIDE_VALUE_LOW_READ" (readReg s r addr.toNat)
/-- WIDE_VALUE_HIGH_WRITE (00 R27). -/
def execWideValueHighWrite (r : Req) (addr : W32) (v : Word) (s : State) : Host.Outcome State Fault Refusal :=
  done (highPart addr) "WIDE_VALUE_HIGH_WRITE" (writeReg s r addr.toNat v.toNat)

/-! ## Keepers -/

/-- KEEPER_INSTRUCTION (08 R339). -/
def execKeeperInstruction (k : Fin 4) (s : State) : Host.Outcome State Fault Refusal := .next (keeperStep s k (fun _ => true))
/-- KEEPER_INTERRUPT_TAKEN (08 R341). -/
def execKeeperInterruptTaken (k : Fin 4) (s : State) : Host.Outcome State Fault Refusal := .next (takeInterrupt s k)
/-- KEEPER_MRET (08 R348): the instruction at the keeper's pc, if it is an mret. -/
def execKeeperMret (k : Fin 4) (s : State) : Host.Outcome State Fault Refusal := .next (keeperStep s k isMret)
/-- KEEPER_FENCE (08 R346): the instruction at the keeper's pc, if it is a FENCE or FENCE.I. -/
def execKeeperFence (k : Fin 4) (s : State) : Host.Outcome State Fault Refusal := .next (keeperStep s k isFence)
/-- KEEPER_WFI (13 R546): the instruction at the keeper's pc, if it is a WFI. -/
def execKeeperWfi (k : Fin 4) (s : State) : Host.Outcome State Fault Refusal := .next (keeperStep s k isWfi)
/-- STORE_BUFFER_DRAIN (08 R345). -/
def execStoreBufferDrain (k : Fin 4) (s : State) : Host.Outcome State Fault Refusal := .next (onBus s (drainOne s k))
/-- TRAP_DONE (08 R348): KP_CTRL. -/
def execTrapDone (k : Fin 4) (s : State) : Host.Outcome State Fault Refusal := .next (writeReg s (.keeper k) (regAddr 13 0x004) 1)

/-! ## Release and reset of keepers -/

/-- KP_RELEASE with the target's bit at `b`. -/
def releaseWord (s : State) (target : Fin 4) (b : Bool) : Nat := (setBitTo s.release target.val b).toNat

/-- KEEPER_RELEASE (08 R343). -/
def execKeeperRelease (k target : Fin 4) (s : State) : Host.Outcome State Fault Refusal :=
  done (targetOk target) "KEEPER_RELEASE" (writeReg s (.keeper k) (regAddr 13 0x200) (releaseWord s target true))
/-- KEEPER_RESET_CMD (08 R385). -/
def execKeeperResetCmd (k target : Fin 4) (s : State) : Host.Outcome State Fault Refusal :=
  done (targetOk target) "KEEPER_RESET_CMD" (writeReg s (.keeper k) (regAddr 13 0x200) (releaseWord s target false))
/-- KEEPER_ALONE_RESET of K1-K3 (08 R350); K0's is K0_SEQUENCER_RESET. -/
def execKeeperAloneReset (k : Fin 4) (left : Nat) (s : State) : Host.Outcome State Fault Refusal :=
  .next (onBus s (if s.rst.pending then s else aloneReset s k left))

/-! ## Timer, doorbells, semaphores, watchdogs -/

/-- KP_MTIME reaches KP_MTIMECMP: mip.MTIP is computed from them (08 R354). -/
def mtimeReach (s : State) (k : Nat) : State :=
  let c := (s.keeper k).mtimecmp.toNat
  if s.rst.porHeld || decide (c ≤ s.e) || decide (2 ^ 52 ≤ c) then s else passTo s (s.per - s.e + c)

/-- MTIMECMP_MATCH (08 R354). -/
def execMtimecmpMatch (k : Fin 4) (s : State) : Host.Outcome State Fault Refusal := .next (mtimeReach s k)
/-- DOORBELL (08 R355): KP_DOORBELL. -/
def execDoorbell (k : Fin 4) (ring : BitVec 4) (s : State) : Host.Outcome State Fault Refusal :=
  .next (writeReg s (.keeper k) (regAddr 13 0x018) ring.toNat)
/-- SEM_READ (08 R356): KP_SEMn. -/
def execSemRead (k : Fin 4) (n : Fin 16) (s : State) : Host.Outcome State Fault Refusal :=
  .next (readReg s (.keeper k) (regAddr 13 (0x240 + 2 * n.val)))
/-- SEM_WRITE (08 R356): KP_SEMn. -/
def execSemWrite (k : Fin 4) (n : Fin 16) (v : Word) (s : State) : Host.Outcome State Fault Refusal :=
  .next (writeReg s (.keeper k) (regAddr 13 (0x240 + 2 * n.val)) v.toNat)
/-- WDT_KICK (08 R359): KP_WDT_KICK. -/
def execWdtKick (k : Fin 4) (v : Word) (s : State) : Host.Outcome State Fault Refusal :=
  .next (writeReg s (.keeper k) (regAddr 13 0x00A) v.toNat)
/-- WDT_CFG_WRITE (08 R360): KP_WDT_CFG. -/
def execWdtCfgWrite (k : Fin 4) (v : Word) (s : State) : Host.Outcome State Fault Refusal :=
  .next (writeReg s (.keeper k) (regAddr 13 0x008) v.toNat)
/-- WDT_WARN (08 R358). -/
def execWdtWarn (k : Fin 4) (s : State) : Host.Outcome State Fault Refusal := .next (onBus s (wdtWarns s k))
/-- WDT_EXPIRY (08 R358). -/
def execWdtExpiry (k : Fin 4) (s : State) : Host.Outcome State Fault Refusal := .next (onBus s (wdtExpires s k))

/-! ## Debug (08 R357, R384; 14 R607) -/

/-- The debug module is open in this hallmark state, and the keeper is there to be halted. -/
def debugOpen (s : State) (k : Nat) : Bool :=
  hallmark s != 2 && decide (k < nKeepers s) && keepersClocked s && !s.rst.pending && (s.keeper k).run && !keeperDoomed s k

/-- DEBUG_HALT (08 R357). -/
def execDebugHalt (k : Fin 4) (s : State) : Host.Outcome State Fault Refusal :=
  .next (if debugOpen s k && !(s.keeper k).dbgHalt then dbgSet s k true else s)
/-- What the debug module wrote, after the keeper's own stores: working RAM with fresh parity, and the pc. -/
def debugInto (s : State) (k : Nat) (m : DebugIn) : State :=
  let s := if m.wram.isEmpty then s else m.wram.foldl (fun s x => putBytes .wram s x.1 [x.2]) (drainAll s k)
  match m.pc with
  | none => s
  | some a => s.setKeeper k { s.keeper k with pc := a &&& 0xFFFFFFFE#32, wfi := false }
/-- In RETURNED the debug module can start K0, which SAFE state holds in reset (14 R607). -/
def debugStarts (s : State) (k : Nat) (m : DebugIn) : Bool :=
  k == 0 && hallmark s == 3 && s.integ.safe && keepersClocked s && !s.rst.pending && !(s.keeper 0).run && m.pc.isSome
/-- DEBUG_RESUME (08 R384; 14 R607). -/
def debugResumes (s : State) (k : Nat) (m : DebugIn) : State :=
  if debugOpen s k && (s.keeper k).dbgHalt then dbgSet (debugInto s k m) k false
  else if debugStarts s k m then
    let t := debugInto s k m
    wdtStart (t.setKeeper k { t.keeper k with run := true }) k false
  else s
def execDebugResume (k : Fin 4) (m : DebugIn) (s : State) : Host.Outcome State Fault Refusal :=
  done (debugInOk m) "DEBUG_RESUME" (debugResumes s k m)

end Sys2Proof.Machine
end

