-- ==== Sys2Proof/Machine/CmdKic.lean ====
section
/-! DEFINITION. The commands of the interrupt controller (08 R361-R379). -/
namespace Sys2Proof.Machine

/-- A cycle of shared source `n`; a pending word that firmware has written in this cycle stands (00 R23). -/
def cycleShared (s : State) (n : Nat) (level : Bool) : State :=
  let t := senseShared s n level
  if s.fwWrote 12 (0x200 + n / 16 * 2) then { t with kic := { t.kic with spend := s.kic.spend } } else t

/-- A cycle of private source `p` of keeper `k`; a doorbell's pulse ends with it (08 R380). -/
def cyclePriv (s : State) (k p : Nat) (level : Bool) : State :=
  let t := sensePriv s k p level
  let t := if s.fwWrote 12 (0x440 + 0x100 * k + p / 16 * 2) then t.setBank k { t.bank k with ppend := (s.bank k).ppend } else t
  if 4 ≤ p then t.setBank k { t.bank k with bells := setBitTo (t.bank k).bells (p - 4) false } else t

/-- A cycle of one source: a WAKE ball takes the level given, any other source has its unit's level (08 R363, R381). The watch
senses it too (08 R377). -/
def sourceCycle (s : State) (src : KicSrc) (level : Bool) : State :=
  match src with
  | .shared n =>
    let n := n.val
    let s := if 65 ≤ n ∧ n < 69 then { s with pwr := { s.pwr with wakeBalls := setBitTo s.pwr.wakeBalls (n - 65) level } } else s
    if sharedLevel s n == level && sharedInputs.any (fun x => x == n) then watchSource (onBus s (cycleShared s n level)) n else s
  | .priv k p =>
    if decide (k.val < nKeepers s) && privHasInput p.val && privLevel s k p == level then onBus s (cyclePriv s k p level) else s

/-- KIC_SOURCE_INPUT (08 R363). -/
def execKicSourceInput (src : KicSrc) (level : Bool) (s : State) : Host.Outcome State Fault Refusal := .next (sourceCycle s src level)

/-- The address of a pending word. -/
def pendAddr : KicPendWord → Nat
  | .shared w => regAddr 12 (0x200 + 2 * w.val)
  | .priv k w => regAddr 12 (0x440 + 0x100 * k.val + 2 * w.val)

/-- KIC_PENDING_WRITE (08 R364). -/
def execKicPendingWrite (r : Req) (w : KicPendWord) (v : Word) (s : State) : Host.Outcome State Fault Refusal :=
  .next (writeReg s r (pendAddr w) v.toNat)

/-- KIC_Kn_CLAIM of a bank. -/
def claimAddr (bank : Fin 4) : Nat := regAddr 12 (0x454 + 0x100 * bank.val)

/-- A claim read by keeper `k`: it stalls while FREEZE bits concern it (08 R373). -/
def claimRead (s : State) (k bank : Fin 4) : State :=
  if loadStalls s (claimAddr bank) then access s (.keeper k) (fun s => s.setBank bank { s.bank bank with stalled := some k })
  else readReg s (.keeper k) (claimAddr bank)

/-- KIC_CLAIM (08 R367). -/
def execKicClaim (k bank : Fin 4) (s : State) : Host.Outcome State Fault Refusal := .next (claimRead s k bank)

/-- A stalled claim read completes. -/
def claimEnd (s : State) (bank : Fin 4) : State :=
  match (s.bank bank).stalled with
  | none => s
  | some k =>
    if claimStalls s bank || !busRuns s then s else claimReturns s k bank

/-- KIC_CLAIM_STALL_END (08 R373). -/
def execKicClaimStallEnd (bank : Fin 4) (s : State) : Host.Outcome State Fault Refusal := .next (claimEnd s bank)
/-- KIC_COMPLETE (08 R368). -/
def execKicComplete (k bank : Fin 4) (id : BitVec 10) (s : State) : Host.Outcome State Fault Refusal :=
  .next (writeReg s (.keeper k) (regAddr 12 (0x456 + 0x100 * bank.val)) id.toNat)
/-- KIC_FREEZE (08 R372): the keeper's own bit. -/
def execKicFreeze (k : Fin 4) (on : Bool) (s : State) : Host.Outcome State Fault Refusal :=
  .next (writeReg s (.keeper k) (regAddr 12 0x300) (b2n on * 2 ^ k.val))

/-- A FREEZE bit has stood for 64 cycles (08 R374). -/
def freezeOver (s : State) (k : Nat) : State :=
  match (s.bank k).freezeAt with
  | some t => if dueCyc s (t + 64) then s.setBank k { s.bank k with freezeAt := none, freezeTmo := true } else s
  | none => s

/-- FREEZE_TMO (08 R374). -/
def execFreezeTmo (k : Fin 4) (s : State) : Host.Outcome State Fault Refusal := .next (onBus s (freezeOver s k))
/-- WATCH_EVENT (08 R377): the watch senses the source that entry `w` names. -/
def execWatchEvent (w : Fin 16) (s : State) : Host.Outcome State Fault Refusal :=
  .next (if watchSenses s w then watchSource s (watchSrc s w) else s)

end Sys2Proof.Machine
end

