-- ==== Sys2Proof/Machine/CmdFe.lean ====
section
/-! DEFINITION. The commands of the front end and the decimation chain (02, 03). -/
namespace Sys2Proof.Machine

/-- SWAP_INSTANT (02 R71). -/
def execSwapInstant (m : SwapIn) (s : State) : Host.Outcome State Fault Refusal := done (swapInOk m) "SWAP_INSTANT" (swapInstantAt s m)
/-- PAIR_STATE_DECISION (02 R85). -/
def execPairStateDecision (p : Fin 192) (s : State) : Host.Outcome State Fault Refusal := .next (if feRuns s then pairDecide s p else s)
/-- HOLD_LINE_MISMATCH (09 R407). -/
def execHoldLineMismatch (line : Fin 32) (s : State) : Host.Outcome State Fault Refusal :=
  .next (if feRuns s then lineMismatch s line else s)

/-- The clamp acts on a pair's modulator, which runs whenever FE_CLK runs, also while the pair is OFF (02 R99). -/
def overload (s : State) (p : Nat) : State :=
  if feRuns s && decide (p < nPairs s) then
    { s with fe := { s.fe with ovrStk := setBitTo s.fe.ovrStk p true } }
  else s

/-- MODULATOR_OVERLOAD (02 R99). -/
def execModulatorOverload (p : Fin 192) (s : State) : Host.Outcome State Fault Refusal := .next (overload s p)
/-- FE_CTRL_WRITE (02 R103). -/
def execFeCtrlWrite (r : Req) (v : Word) (s : State) : Host.Outcome State Fault Refusal := .next (writeReg s r (regAddr 6 0x000) v.toNat)
/-- FE_PAIR_EN_WRITE (02 R101). -/
def execFePairEnWrite (r : Req) (w : Fin 12) (v : Word) (s : State) : Host.Outcome State Fault Refusal :=
  .next (writeReg s r (regAddr 6 (0x020 + 2 * w.val)) v.toNat)
/-- FE_DCH_WRITE (02 R94): FE_DCH, or FE_DCH_NEG. -/
def execFeDchWrite (r : Req) (neg : Bool) (w : Fin 12) (v : Word) (s : State) : Host.Outcome State Fault Refusal :=
  .next (writeReg s r (regAddr 6 ((if neg then 0x060 else 0x040) + 2 * w.val)) v.toNat)

/-! ## Decimation -/

/-- CIC_OUTPUT (03 R116). -/
def execCicOutput (bits : List (BitVec 64)) (s : State) : Host.Outcome State Fault Refusal :=
  done (bitsOk bits) "CIC_OUTPUT" (cicOutputAt s bits)
/-- COARSE_DELIVERY (03 R121). -/
def execCoarseDelivery (s : State) : Host.Outcome State Fault Refusal := .next (coarseDeliver s)
/-- PRESET_OUTPUT (03 R124). -/
def execPresetOutput (mode : Fin 6) (s : State) : Host.Outcome State Fault Refusal := .next (modeOutput s mode)
/-- TOUCHSTONE_OUTPUT (03 R126). -/
def execTouchstoneOutput (slow : Bool) (s : State) : Host.Outcome State Fault Refusal := .next (modeOutput s (if slow then 7 else 6))
/-- FINAL_SAMPLE_DELIVERY (03 R131). -/
def execFinalSampleDelivery (s : State) : Host.Outcome State Fault Refusal := .next (sampleDeliver s)
/-- DC_GO (03 R141). -/
def execDcGo (r : Req) (w : Fin 12) (v : Word) (s : State) : Host.Outcome State Fault Refusal :=
  .next (writeReg s r (regAddr 7 (0x020 + 2 * w.val)) v.toNat)

/-- The start instant of the pair's change has come (03 R143). -/
def changeStarts (s : State) (p : Nat) : State :=
  match (s.pdc p).change with
  | some c => if feRuns s && decide (c.start ≤ s.per) then dcChangeAt s p else s
  | none => s

/-- DC_CHANGE_START (03 R143). -/
def execDcChangeStart (p : Fin 192) (s : State) : Host.Outcome State Fault Refusal := .next (changeStarts s p)
/-- DC_NEXT_WRITE (03 R160). -/
def execDcNextWrite (r : Req) (p : Fin 192) (v : Word) (s : State) : Host.Outcome State Fault Refusal :=
  .next (writeReg s r (regAddr 7 (0x400 + 2 * p.val)) v.toNat)
/-- DC_RESTART (03 R158). -/
def execDcRestart (r : Req) (w : Fin 12) (v : Word) (s : State) : Host.Outcome State Fault Refusal :=
  .next (writeReg s r (regAddr 7 (0x100 + 2 * w.val)) v.toNat)
/-- CHAIN_RESTART (03 R135). -/
def execChainRestart (p : Fin 192) (s : State) : Host.Outcome State Fault Refusal := .next (if feRuns s then dcRestartDue s p else s)

end Sys2Proof.Machine
end

