-- ==== Sys2Proof/Machine/CmdSs.lean ====
section
/-! DEFINITION. The commands of the sample store and of the store arbiters (04, 05). -/
namespace Sys2Proof.Machine

/-! ## Streams (04) -/

/-- STREAM_RECORD_WRITE (04 R178). -/
def execStreamRecordWrite (stream : Fin 256) (s : State) : Host.Outcome State Fault Refusal := .next (onBus s (writeStream s stream))
/-- SS_D_STAT_READ (04 R192). -/
def execSsDStatRead (k : Fin 4) (s : State) : Host.Outcome State Fault Refusal := .next (readReg s (.keeper k) (regAddr 8 0x018))
/-- SS_D_TAIL_WRITE (04 R180): both parts of TAIL. -/
def execSsDTailWrite (r : Req) (v : W32) (s : State) : Host.Outcome State Fault Refusal := .next (writeWide s r (regAddr 8 0x00C) v.toNat 2)
/-- SS_D_HEAD_WRITE (04 R181): both parts of HEAD. -/
def execSsDHeadWrite (r : Req) (v : W32) (s : State) : Host.Outcome State Fault Refusal := .next (writeWide s r (regAddr 8 0x008) v.toNat 2)
/-- SS_PCOARSE_WRITE (04 R188): SS_PCOARSEnnn, or SS_PSAMPnnn. -/
def execSsPcoarseWrite (r : Req) (coarse : Bool) (p : Fin 192) (v : Word) (s : State) : Host.Outcome State Fault Refusal :=
  .next (writeReg s r (regAddr 8 ((if coarse then 0x400 else 0x200) + 2 * p.val)) v.toNat)
/-- ARM_STREAM (04 R203): SS_D_CTRL with ARMED 1. -/
def execArmStream (r : Req) (v : Word) (s : State) : Host.Outcome State Fault Refusal :=
  done (armedBit v) "ARM_STREAM" (writeReg s r (regAddr 8 0x002) v.toNat)
/-- ARM_CHECK_END (04 R203). -/
def execArmCheckEnd (stream : Fin 256) (s : State) : Host.Outcome State Fault Refusal := .next (onBus s (armEnd s stream))
/-- DISARM_STREAM (04 R204): SS_D_CTRL with ARMED 0. -/
def execDisarmStream (r : Req) (v : Word) (s : State) : Host.Outcome State Fault Refusal :=
  done (!armedBit v) "DISARM_STREAM" (writeReg s r (regAddr 8 0x002) v.toNat)

/-! ## The allocator -/

/-- SS_LEASE_ACQUIRE (04 R196). -/
def execSsLeaseAcquire (k : Fin 4) (s : State) : Host.Outcome State Fault Refusal := .next (writeReg s (.keeper k) (regAddr 8 0x030) 1)
/-- SS_LEASE_RELEASE (04 R196). -/
def execSsLeaseRelease (k : Fin 4) (s : State) : Host.Outcome State Fault Refusal := .next (writeReg s (.keeper k) (regAddr 8 0x030) 2)

/-- The allocator lease has run out. -/
def ssLeaseOver (s : State) : State :=
  let l := s.ss.lease
  if leaseOver l s.cyc then { s with ss := { s.ss with lease := { l with held := false }, flt := s.ss.flt ||| 2, lastOwner := l.owner } } else s

/-- SS_LEASE_EXPIRY (04 R196). -/
def execSsLeaseExpiry (s : State) : Host.Outcome State Fault Refusal := .next (onBus s (ssLeaseOver s))
/-- SS_ALLOC (04 R198). -/
def execSsAlloc (k : Fin 4) (v : Word) (s : State) : Host.Outcome State Fault Refusal :=
  .next (writeReg s (.keeper k) (regAddr 8 0x034) v.toNat)

/-- SS_ALLOC_RESULT (04 R198). -/
def execSsAllocResult (k : Fin 4) (s : State) : Host.Outcome State Fault Refusal := .next (onBus s (allocDone s k))
/-- SS_FREE (04 R200). -/
def execSsFree (k : Fin 4) (v : Word) (s : State) : Host.Outcome State Fault Refusal :=
  .next (writeReg s (.keeper k) (regAddr 8 0x03A) v.toNat)
/-- SS_RETIRE (04 R202). -/
def execSsRetire (r : Req) (v : Word) (s : State) : Host.Outcome State Fault Refusal := .next (writeReg s r (regAddr 8 0x03C) v.toNat)

/-! ## Protection (04 R206-R213) -/

/-- SS_ELOG_CLR (04 R213). -/
def execSsElogClr (r : Req) (v : Word) (s : State) : Host.Outcome State Fault Refusal := .next (writeReg s r (regAddr 8 0x07C) v.toNat)

/-- The image scrubber's next read, at its time. -/
def iscrubRead (s : State) : State :=
  let x := s.ss
  if !x.iscrubEn || !busRuns s then s
  else
    let s := passBus s (x.iscrubAt + (x.iscrubRate.toNat + 1) * 64)
    let a := 4 * x.iscrubPos
    let s := { s with ss := { s.ss with iscrubAt := s.cyc, iscrubPos := (x.iscrubPos + 1) % (iramSize / 4) } }
    if badLE .iram s a 4 then askRefetch s a else s

/-- IMAGE_SCRUB_READ (04 R206). -/
def execImageScrubRead (s : State) : Host.Outcome State Fault Refusal := .next (iscrubRead s)
/-- SS_ISCRUB_WRITE (04 R206). -/
def execSsIscrubWrite (r : Req) (v : Word) (s : State) : Host.Outcome State Fault Refusal := .next (writeReg s r (regAddr 8 0x058) v.toNat)
/-- IMAGE_REFETCH (04 R206). -/
def execImageRefetch (o : RefetchEnd) (s : State) : Host.Outcome State Fault Refusal := .next (refetchWord s o)

/-- The group's arbiter is idle (04 R211). -/
def groupIdles (s : State) (g : Nat) : Bool :=
  (s.agrp g).grant.isNone && (s.agrp g).susp.isNone && !(List.range 12).any (fun p => arbWants s (s.agrp g) p)

/-- SCRUB_READ (04 R211). -/
def execScrubRead (g : Fin 4) (s : State) : Host.Outcome State Fault Refusal :=
  .next (onBus s (if groupIdles s g then scrubStep s g else s))

/-- The lap ends and a new one starts. -/
def scrubLap (s : State) : State := if lapDone s then newLap { s with ss := { s.ss with scrubLap := elapsedMs s s.ss.scrubStart } } else s

/-- SCRUB_LAP_END (04 R211). -/
def execScrubLapEnd (s : State) : Host.Outcome State Fault Refusal := .next (onBus s (scrubLap s))
/-- SS_SCRUB_CTRL_WRITE (04 R211). -/
def execSsScrubCtrlWrite (r : Req) (v : Word) (s : State) : Host.Outcome State Fault Refusal :=
  .next (writeReg s r (regAddr 8 0x050) v.toNat)

/-! ## Arbiters (05) -/

/-- ARBITER_REQUEST (05 R221). -/
def execArbiterRequest (g : Fin 4) (port : Fin 12) (q : ArbRequest) (s : State) : Host.Outcome State Fault Refusal :=
  done (requestOk q) "ARBITER_REQUEST" (onBus s (arbRaise s g port q))
/-- ARBITER_GRANT (05 R224). -/
def execArbiterGrant (g : Fin 4) (s : State) : Host.Outcome State Fault Refusal := .next (onBus s (arbGrant s g))
/-- GRANT_WITHDRAWN (05 R229). -/
def execGrantWithdrawn (g : Fin 4) (s : State) : Host.Outcome State Fault Refusal := .next (onBus s (arbWithdraw s g))
/-- BURST_COMPLETE (05 R234). -/
def execBurstComplete (g : Fin 4) (s : State) : Host.Outcome State Fault Refusal := .next (onBus s (arbComplete s g))
/-- BURST_RESUME (05 R231). -/
def execBurstResume (g : Fin 4) (s : State) : Host.Outcome State Fault Refusal := .next (onBus s (arbResume s g))
/-- HOLD_CUTOFF (05 R233). -/
def execHoldCutoff (g : Fin 4) (moved : Nat) (s : State) : Host.Outcome State Fault Refusal := .next (onBus s (holdCut s g moved))
/-- REQUEST_REFUSED (05 R236). -/
def execRequestRefused (g : Fin 4) (port : Fin 12) (s : State) : Host.Outcome State Fault Refusal := .next (onBus s (arbRefuse s g port))
/-- HINT_REREQUEST (05 R240). -/
def execHintRerequest (g : Fin 4) (port : Fin 12) (s : State) : Host.Outcome State Fault Refusal :=
  done (readoutOk port) "HINT_REREQUEST" (onBus s (hintAgain s g port))
/-- ARB_BLOCK_CLEAR (05 R246). -/
def execArbBlockClear (r : Req) (v : Word) (s : State) : Host.Outcome State Fault Refusal := .next (writeReg s r (regAddr 9 0x004) v.toNat)

end Sys2Proof.Machine
end

