-- ==== Sys2Proof/Machine/CmdRc.lean ====
section
/-! DEFINITION. The commands of the recognizers and the keepers' commands to the charm engine (06, 07). -/
namespace Sys2Proof.Machine

/-- The decisions that each command carries out. -/
def isSettle : RcDue → Bool
  | .settlingEnd => true
  | _ => false
def isImpulse : RcDue → Bool
  | .impulseEnd => true
  | _ => false
def isBlocked : RcDue → Bool
  | .blockedEnd => true
  | _ => false
def isLong : RcDue → Bool
  | .long _ => true
  | _ => false
def isSteps : RcDue → Bool
  | .stepsEnd => true
  | _ => false
def isFall : RcDue → Bool
  | .fall => true
  | _ => false
def isTip : RcDue → Bool
  | .tip _ _ => true
  | _ => false
def isTipClear : RcDue → Bool
  | .tipClear _ => true
  | _ => false

/-- SETTLING_END (06 R259). -/
def execSettlingEnd (pod : Fin 32) (s : State) : Host.Outcome State Fault Refusal := .next (onBus s (rcCommand isSettle s pod))
/-- IMPULSE_END (06 R261). -/
def execImpulseEnd (pod : Fin 32) (s : State) : Host.Outcome State Fault Refusal := .next (onBus s (rcCommand isImpulse s pod))
/-- BLOCKED_END (06 R261). -/
def execBlockedEnd (pod : Fin 32) (s : State) : Host.Outcome State Fault Refusal := .next (onBus s (rcCommand isBlocked s pod))
/-- LONG (06 R261). -/
def execLong (pod : Fin 32) (s : State) : Host.Outcome State Fault Refusal := .next (onBus s (rcCommand isLong s pod))
/-- STEPS_END (06 R268). -/
def execStepsEnd (pod : Fin 32) (s : State) : Host.Outcome State Fault Refusal := .next (onBus s (rcCommand isSteps s pod))
/-- FALL (06 R269). -/
def execFall (pod : Fin 32) (s : State) : Host.Outcome State Fault Refusal := .next (onBus s (rcCommand isFall s pod))
/-- TIP (06 R271). -/
def execTip (pod : Fin 32) (s : State) : Host.Outcome State Fault Refusal := .next (onBus s (rcCommand isTip s pod))
/-- TIP_CLEAR (06 R271). -/
def execTipClear (pod : Fin 32) (s : State) : Host.Outcome State Fault Refusal := .next (onBus s (rcCommand isTipClear s pod))
/-- REFCAP (06 R272): RC_Ppp_BASE. -/
def execRefcap (r : Req) (pod : Fin 32) (v : Word) (s : State) : Host.Outcome State Fault Refusal :=
  .next (writeReg s r (regAddr 10 (0x102 + 0x40 * pod.val)) v.toNat)
/-- RC_CFG_WRITE (06 R274): RC_Ppp_CFG. -/
def execRcCfgWrite (r : Req) (pod : Fin 32) (v : Word) (s : State) : Host.Outcome State Fault Refusal :=
  .next (writeReg s r (regAddr 10 (0x100 + 0x40 * pod.val)) v.toNat)

/-! ## Charm engine (07) -/

/-- CE_CTRL_WRITE (07 R328). -/
def execCeCtrlWrite (r : Req) (v : Word) (s : State) : Host.Outcome State Fault Refusal := .next (writeReg s r (regAddr 11 0x000) v.toNat)
/-- CE_LEASE_ACQUIRE (07 R329). -/
def execCeLeaseAcquire (k : Fin 4) (s : State) : Host.Outcome State Fault Refusal := .next (writeReg s (.keeper k) (regAddr 11 0x010) 1)
/-- CE_LEASE_RELEASE (07 R329). -/
def execCeLeaseRelease (k : Fin 4) (s : State) : Host.Outcome State Fault Refusal := .next (writeReg s (.keeper k) (regAddr 11 0x010) 2)

/-- The charm store lease has run out. -/
def ceLeaseOver (s : State) : State :=
  let l := s.ce.lease
  if leaseOver l s.cyc then { s with ce := { s.ce with lease := { l with held := false }, flt := s.ce.flt ||| 0x400, lastOwner := l.owner } }
  else s

/-- CE_LEASE_EXPIRY (07 R329). -/
def execCeLeaseExpiry (s : State) : Host.Outcome State Fault Refusal := .next (onBus s (ceLeaseOver s))
/-- CE_I_CTRL_WRITE (07 R331). -/
def execCeICtrlWrite (r : Req) (v : Word) (s : State) : Host.Outcome State Fault Refusal := .next (writeReg s r (regAddr 11 0x102) v.toNat)
/-- CE_SRC_WRITE (07 R332). -/
def execCeSrcWrite (r : Req) (n : Fin 32) (v : Word) (s : State) : Host.Outcome State Fault Refusal :=
  .next (writeReg s r (regAddr 11 (0x080 + 2 * n.val)) v.toNat)
/-- CE_CLASS_WRITE (07 R318). -/
def execCeClassWrite (r : Req) (w : Fin 4) (v : Word) (s : State) : Host.Outcome State Fault Refusal :=
  .next (writeReg s r (regAddr 11 (0x020 + 2 * w.val)) v.toNat)
/-- CE_SLACK_WRITE (07 R334). -/
def execCeSlackWrite (r : Req) (lane : Fin 2) (v : Word) (s : State) : Host.Outcome State Fault Refusal :=
  .next (writeReg s r (regAddr 11 (0x016 + 2 * lane.val)) v.toNat)

end Sys2Proof.Machine
end

