-- ==== Sys2Proof/Machine/CmdIo.lean ====
section
/-! DEFINITION. The commands of the instrument ports and the outputs, and the 1 ms tick (09; 07 R292; 13 R556; 16 R667). -/
namespace Sys2Proof.Machine

/-- The frame of a present port. -/
def onPort (s : State) (n : Nat) (t : State) : State := if n < nPorts s then onBus s t else s

/-- START_BIT (09 R390). -/
def execStartBit (port : Fin 16) (s : State) : Host.Outcome State Fault Refusal := .next (onPort s port (startBit s port))
/-- CHARACTER_RECEIVED (09 R391). -/
def execCharacterReceived (port : Fin 16) (byte : Byte) (parityBad stopLow : Bool) (s : State) : Host.Outcome State Fault Refusal :=
  .next (onPort s port (portChar s port byte parityBad stopLow))
/-- BREAK (09 R392). -/
def execBreakRx (port : Fin 16) (s : State) : Host.Outcome State Fault Refusal := .next (onPort s port (portBreak s port))
/-- IDLE_GAP (09 R393). -/
def execIdleGap (port : Fin 16) (s : State) : Host.Outcome State Fault Refusal := .next (onPort s port (portIdle s port))
/-- FRAME_RECORD_WRITE (09 R401). -/
def execFrameRecordWrite (s : State) : Host.Outcome State Fault Refusal := .next (onBus s (writeFrame s))
/-- The address of a port's register. -/
def portAddr (port : Fin 16) (off : Nat) : Nat := regAddr 14 (0x100 + 0x40 * port.val + off)
/-- IP_CTRL_WRITE (09 R396). -/
def execIpCtrlWrite (r : Req) (port : Fin 16) (v : Word) (s : State) : Host.Outcome State Fault Refusal :=
  .next (writeReg s r (portAddr port 0x00) v.toNat)
/-- TXDATA (09 R402). -/
def execTxdata (r : Req) (port : Fin 16) (v : Word) (s : State) : Host.Outcome State Fault Refusal :=
  .next (writeReg s r (portAddr port 0x12) v.toNat)
/-- CHARACTER_SENT (09 R403). -/
def execCharacterSent (port : Fin 16) (s : State) : Host.Outcome State Fault Refusal := .next (onPort s port (portSent s port))
/-- BREAK_END (09 R392). -/
def execBreakEnd (port : Fin 16) (s : State) : Host.Outcome State Fault Refusal :=
  .next (onPort s port (s.setPort port { s.port port with breakWait := false }))

/-! ## Outputs -/

/-- IL_CMD_WRITE (09 R406). -/
def execIlCmdWrite (r : Req) (w : Fin 2) (v : Word) (s : State) : Host.Outcome State Fault Refusal :=
  .next (writeReg s r (regAddr 15 (2 * w.val)) v.toNat)
/-- VO_CODE_WRITE (09 R409). -/
def execVoCodeWrite (r : Req) (n : Fin 16) (v : Word) (s : State) : Host.Outcome State Fault Refusal :=
  .next (writeReg s r (regAddr 16 (0x100 + 0x10 * n.val)) v.toNat)
/-- VOUT_UPDATE (09 R409). -/
def execVoutUpdate (s : State) : Host.Outcome State Fault Refusal := .next (voUpdateAt s)
/-- LO_CMD_WRITE (09 R411). -/
def execLoCmdWrite (r : Req) (n : Fin 8) (v : Word) (s : State) : Host.Outcome State Fault Refusal :=
  .next (writeReg s r (regAddr 17 (0x100 + 0x10 * n.val)) v.toNat)
/-- COMPLIANCE (09 R413). -/
def execCompliance (n : Fin 8) (s : State) : Host.Outcome State Fault Refusal :=
  .next (if feRuns s && decide (n.val < nLoops s) then s.setLout n (loopComply (s.lout n)) else s)
/-- LO_STAT_CLEAR (09 R415). -/
def execLoStatClear (r : Req) (n : Fin 8) (v : Word) (s : State) : Host.Outcome State Fault Refusal :=
  .next (writeReg s r (regAddr 17 (0x108 + 0x10 * n.val)) v.toNat)
/-- TICK (07 R292). -/
def execTick (m : TickIn) (s : State) : Host.Outcome State Fault Refusal := done (tickInOk m) "TICK" (tickAt s m)
/-- PWR_TJ_MAX_WRITE (16 R667). -/
def execPwrTjMaxWrite (r : Req) (v : Word) (s : State) : Host.Outcome State Fault Refusal := .next (writeReg s r (regAddr 2 0x016) v.toNat)

end Sys2Proof.Machine
end

