-- ==== Sys2Proof/Machine/CmdBc.lean ====
section
/-! DEFINITION. The requests of the bench chain and what follows them (10). -/
namespace Sys2Proof.Machine

/-- BC_POLL (10 R441). -/
def execBcPoll (h : BcHdr) (payload : List Byte) (s : State) : Host.Outcome State Fault Refusal :=
  done (payloadOk payload) "BC_POLL" (bcServe s h 0x01 payload (fun r => r) pollRun)
/-- BC_STATUS (10 R450). -/
def execBcStatus (h : BcHdr) (payload : List Byte) (s : State) : Host.Outcome State Fault Refusal :=
  done (payloadOk payload) "BC_STATUS" (bcServe s h 0x02 payload (fun r => r) statusRun)
/-- BC_STREAM_STAT (10 R442). -/
def execBcStreamStat (h : BcHdr) (payload : List Byte) (s : State) : Host.Outcome State Fault Refusal :=
  done (payloadOk payload) "BC_STREAM_STAT" (bcBus s h 0x03 payload)
/-- BC_STREAM_READ (10 R443). -/
def execBcStreamRead (h : BcHdr) (payload : List Byte) (s : State) : Host.Outcome State Fault Refusal :=
  done (payloadOk payload) "BC_STREAM_READ" (bcBus s h 0x04 payload)
/-- BC_STREAM_ACK (10 R445). -/
def execBcStreamAck (h : BcHdr) (payload : List Byte) (s : State) : Host.Outcome State Fault Refusal :=
  done (payloadOk payload) "BC_STREAM_ACK" (bcBus s h 0x05 payload)
/-- BC_CLASS_READ (10 R441). -/
def execBcClassRead (h : BcHdr) (payload : List Byte) (s : State) : Host.Outcome State Fault Refusal :=
  done (payloadOk payload) "BC_CLASS_READ" (bcBus s h 0x06 payload)
/-- BC_OUTPUT_READ (10 R444). -/
def execBcOutputRead (h : BcHdr) (payload : List Byte) (s : State) : Host.Outcome State Fault Refusal :=
  done (payloadOk payload) "BC_OUTPUT_READ" (bcBus s h 0x07 payload)
/-- BC_SENS_READ (10 R441). -/
def execBcSensRead (h : BcHdr) (payload : List Byte) (s : State) : Host.Outcome State Fault Refusal :=
  done (payloadOk payload) "BC_SENS_READ" (bcBus s h 0x08 payload)
/-- BC_MAIL (10 R446). -/
def execBcMail (h : BcHdr) (payload : List Byte) (s : State) : Host.Outcome State Fault Refusal :=
  done (payloadOk payload) "BC_MAIL" (bcBus s h 0x09 payload)
/-- BC_LOCKET_READ (10 R441). -/
def execBcLocketRead (h : BcHdr) (payload : List Byte) (s : State) : Host.Outcome State Fault Refusal :=
  done (payloadOk payload) "BC_LOCKET_READ" (bcBus s h 0x0A payload)
/-- BC_IMG_WRITE (10 R447). -/
def execBcImgWrite (h : BcHdr) (payload : List Byte) (s : State) : Host.Outcome State Fault Refusal :=
  done (payloadOk payload) "BC_IMG_WRITE" (bcServe s h 0x0B payload (fun r => r) (fun s a => imgWriteLink s .chain a))

/-- A broadcast WAKE has no reply: in SLEEP it wakes the hub, and the full rate falls due from it (10 R458). -/
def wakeBcast (s : State) : State :=
  if s.pwr.st = .sleep then { bcWoken (bcCount s) with bc := { (bcWoken (bcCount s)).bc with rateDue := some s.now } } else bcCount s

/-- BC_WAKE (10 R458). -/
def execBcWake (h : BcHdr) (payload : List Byte) (s : State) : Host.Outcome State Fault Refusal :=
  done (payloadOk payload) "BC_WAKE"
    (bcRequest s h 0x0E payload (fun s => if payload = [] then wakeBcast s else s) (fun r => { r with wakes := s.pwr.st == .sleep })
      (fun t => bcRun t 0x0E payload (fun t a => let x := wakeRun t a; (.answer x.1, x.2))))
/-- BC_RESET (10 R460). -/
def execBcReset (h : BcHdr) (payload : List Byte) (s : State) : Host.Outcome State Fault Refusal :=
  done (payloadOk payload) "BC_RESET" (bcServe s h 0x0F payload (fun r => { r with resets := true }) resetRun)

/-- A broadcast CALL schedules a notice (10 R451). -/
def callBcast (h : BcHdr) (payload : List Byte) (s : State) : State :=
  if bcServed s 0x10 && payload.length == 2 then (callRun h (bcCount s) payload).2 else s

/-- BC_CALL (10 R451). -/
def execBcCall (h : BcHdr) (payload : List Byte) (s : State) : Host.Outcome State Fault Refusal :=
  done (payloadOk payload) "BC_CALL"
    (bcRequest s h 0x10 payload (callBcast h payload) (fun r => r) (fun t => bcRun t 0x10 payload (callRun h)))

/-- A request of a TYPE that the hub does not serve; a reply's or a notice's TYPE is no request (10 R449). -/
def unknownRequest (s : State) (h : BcHdr) (type : Byte) (payload : List Byte) : State :=
  if 0x80 ≤ type.toNat then s
  else bcRequest s h type.toNat payload (fun s => s) (fun r => r) (fun t => (.answer (.err 1 0), t))

/-- BC_UNKNOWN_TYPE (10 R449). -/
def execBcUnknownType (h : BcHdr) (type : Byte) (payload : List Byte) (s : State) : Host.Outcome State Fault Refusal :=
  done (payloadOk payload && unknownType type) "BC_UNKNOWN_TYPE" (unknownRequest s h type payload)
/-- BC_FRAME_DISCARD (10 R434). -/
def execBcFrameDiscard (e : FrameErr) (s : State) : Host.Outcome State Fault Refusal := .next (bcDiscard s e)
/-- BC_REPLY_SEND (10 R437). -/
def execBcReplySend (startBitFirst : Bool) (s : State) : Host.Outcome State Fault Refusal :=
  .next (if linksAnswer s then bcSend s startBitFirst else s)
/-- BC_NOTICE_SEND (10 R451). -/
def execBcNoticeSend (s : State) : Host.Outcome State Fault Refusal := .next (if linksAnswer s then bcSendNotice s else s)
/-- BC_MAIL_GO (10 R446). -/
def execBcMailGo (r : Req) (v : Word) (s : State) : Host.Outcome State Fault Refusal := .next (writeReg s r (regAddr 18 0x014) v.toNat)
/-- BC_MAIL_WAIT_EXPIRY (10 R446). -/
def execBcMailWaitExpiry (s : State) : Host.Outcome State Fault Refusal := .next (if linksAnswer s then mailExpire s else s)
/-- BC_RATE_SWITCH (10 R458). -/
def execBcRateSwitch (s : State) : Host.Outcome State Fault Refusal := .next (bcFullRate s)
/-- BC_WIN_CLR (10 R461). -/
def execBcWinClr (r : Req) (v : Word) (s : State) : Host.Outcome State Fault Refusal := .next (writeReg s r (regAddr 18 0x028) v.toNat)
/-- CHAIN_RESET (10 R460). -/
def execChainReset (s : State) : Host.Outcome State Fault Refusal := .next (chainResetDue s)

end Sys2Proof.Machine
end

