-- ==== Sys2Proof/Machine/CmdTw.lean ====
section
/-! DEFINITION. The commands of the two-wire target port (11). -/
namespace Sys2Proof.Machine

/-- TW_POLL (11 R474). -/
def execTwPoll (args : List Byte) (s : State) : Host.Outcome State Fault Refusal :=
  .next (twReadPlain s 0x01 0 args (fun s => (.plain (beBytes (linkState s) 1 ++ beBytes (twNotice s) 2), s)))
/-- TW_STATUS (11 R487). -/
def execTwStatus (args : List Byte) (s : State) : Host.Outcome State Fault Refusal := .next (twStatusRead s args)
/-- TW_STREAM_STAT (11 R474). -/
def execTwStreamStat (args : List Byte) (s : State) : Host.Outcome State Fault Refusal := .next (twDo s 0x03 args)
/-- TW_STREAM_READ (11 R472). -/
def execTwStreamRead (args : List Byte) (s : State) : Host.Outcome State Fault Refusal := .next (twDo s 0x04 args)
/-- TW_STREAM_ACK (11 R474). -/
def execTwStreamAck (args : List Byte) (pec : Option Byte) (s : State) : Host.Outcome State Fault Refusal :=
  .next (twDo s 0x05 (args ++ pec.toList))
/-- TW_CLASS_READ (11 R474). -/
def execTwClassRead (args : List Byte) (s : State) : Host.Outcome State Fault Refusal := .next (twDo s 0x06 args)
/-- TW_OUTPUT_READ (11 R474). -/
def execTwOutputRead (args : List Byte) (s : State) : Host.Outcome State Fault Refusal := .next (twDo s 0x07 args)
/-- TW_SENS_READ (11 R474). -/
def execTwSensRead (args : List Byte) (s : State) : Host.Outcome State Fault Refusal := .next (twDo s 0x08 args)
/-- MAIL_PUT (11 R479). -/
def execMailPut (args : List Byte) (pec : Option Byte) (s : State) : Host.Outcome State Fault Refusal :=
  .next (twDo s 0x09 (args ++ pec.toList))
/-- TW_LOCKET_READ (11 R474). -/
def execTwLocketRead (args : List Byte) (s : State) : Host.Outcome State Fault Refusal := .next (twDo s 0x0A args)
/-- TW_IMG_WRITE (11 R480). -/
def execTwImgWrite (args : List Byte) (pec : Option Byte) (s : State) : Host.Outcome State Fault Refusal :=
  .next (twImgWriteW s (args ++ pec.toList))
/-- TW_RESET (11 R482): a TWIRE reset at the stop condition. -/
def execTwReset (args : List Byte) (pec : Option Byte) (s : State) : Host.Outcome State Fault Refusal :=
  .next (twResetW s (args ++ pec.toList) (fun s => resetCause s 3))
/-- RESULT (11 R478). -/
def execResult (args : List Byte) (s : State) : Host.Outcome State Fault Refusal := .next (twResultRead s args)

/-- The body of LAST_ERR. -/
def lastErrBody (s : State) : List Byte := [s.tw.lastErr.1, s.tw.lastErr.2.1] ++ beBytes s.tw.lastErr.2.2.toNat 2

/-- LAST_ERR (11 R485). -/
def execLastErr (args : List Byte) (s : State) : Host.Outcome State Fault Refusal :=
  .next (twReadPlain s 0x21 0 args (fun s => (.plain (lastErrBody s), s)))
/-- ALERT_RESPONSE (11 R489). -/
def execAlertResponse (others : List (BitVec 7)) (addrByteDone : Bool) (s : State) : Host.Outcome State Fault Refusal :=
  .next (twAlertResponse s (others.map (·.toNat)) addrByteDone)
/-- TW_PROTOCOL_ERROR (11 R477). -/
def execTwProtocolError (e : TwProto) (s : State) : Host.Outcome State Fault Refusal := done (protoOk e) "TW_PROTOCOL_ERROR" (twProto s e)
/-- TW_READ_DISCARD (11 R469): the read command is acknowledged and not executed. -/
def execTwReadDiscard (cmd : Byte) (s : State) : Host.Outcome State Fault Refusal :=
  .next (if twAnswers s && twCmds.any (fun x => x == cmd.toNat) then twAck (twLatch s) true else s)
/-- TW_SCL_TIMEOUT (11 R467). -/
def execTwSclTimeout (s : State) : Host.Outcome State Fault Refusal := .next (twTimeout s)
/-- STOP_CONDITION (11 R467). -/
def execStopCondition (s : State) : Host.Outcome State Fault Refusal := .next { s with tw := { s.tw with stopWait := false } }
/-- ALERT_LATCH (11 R488). -/
def execAlertLatch (s : State) : Host.Outcome State Fault Refusal := .next (twLatch s)
/-- TW_MAIL_GO (11 R479). -/
def execTwMailGo (r : Req) (v : Word) (s : State) : Host.Outcome State Fault Refusal := .next (writeReg s r (regAddr 19 0x014) v.toNat)
/-- TW_ALERT_CLR (11 R488). -/
def execTwAlertClr (r : Req) (v : Word) (s : State) : Host.Outcome State Fault Refusal := .next (writeReg s r (regAddr 19 0x00E) v.toNat)
/-- TW_WIN_CLR (11 R481). -/
def execTwWinClr (r : Req) (v : Word) (s : State) : Host.Outcome State Fault Refusal := .next (writeReg s r (regAddr 19 0x028) v.toNat)

end Sys2Proof.Machine
end

