-- ==== Sys2Proof/Machine/CmdSys.lean ====
section
/-! DEFINITION. The commands of the EEPROM and image, of clocks, power states and resets, and of integrity (12, 13, 14, 16). -/
namespace Sys2Proof.Machine

/-! ## EEPROM and image (12) -/

/-- EEPROM_READ (12 R497). -/
def execEepromRead (fail : Option EepErr) (s : State) : Host.Outcome State Fault Refusal := .next (eepReadFirst s fail)
/-- EEPROM_READ_RETRY (12 R500). -/
def execEepromReadRetry (fail : Option EepErr) (s : State) : Host.Outcome State Fault Refusal := .next (eepReadAgain s fail)
/-- EEPROM_WRITE (12 R498). -/
def execEepromWrite (stuck : Bool) (s : State) : Host.Outcome State Fault Refusal := .next (storeWrite s stuck)
/-- STORE_FINISH (12 R499). -/
def execStoreFinish (s : State) : Host.Outcome State Fault Refusal := .next (storeAcked s)
/-- STORE_NOACK (12 R499). -/
def execStoreNoack (s : State) : Host.Outcome State Fault Refusal := .next (storeSilent s)
/-- IMG_LEASE_ACQUIRE (12 R530). -/
def execImgLeaseAcquire (k : Fin 4) (s : State) : Host.Outcome State Fault Refusal := .next (writeReg s (.keeper k) (regAddr 5 0x020) 1)
/-- IMG_LEASE_RELEASE (12 R530). -/
def execImgLeaseRelease (k : Fin 4) (s : State) : Host.Outcome State Fault Refusal := .next (writeReg s (.keeper k) (regAddr 5 0x020) 2)

/-- The EEPROM port lease has run out. -/
def imgLeaseOver (s : State) : State :=
  let l := s.img.lease
  if leaseOver l s.cyc then { s with img := { s.img with lease := { l with held := false }, flt := s.img.flt ||| 0x20, lastOwner := l.owner } }
  else s

/-- IMG_LEASE_EXPIRY (12 R530). -/
def execImgLeaseExpiry (s : State) : Host.Outcome State Fault Refusal := .next (onBus s (imgLeaseOver s))
/-- IMG_REQ_READ (12 R526). -/
def execImgReqRead (k : Fin 4) (s : State) : Host.Outcome State Fault Refusal := .next (writeReg s (.keeper k) (regAddr 5 0x036) 1)
/-- IMG_REQ_STORE (12 R521). -/
def execImgReqStore (k : Fin 4) (s : State) : Host.Outcome State Fault Refusal := .next (writeReg s (.keeper k) (regAddr 5 0x036) 2)
/-- START_UP_SEQUENCE (12 R518). -/
def execStartUpSequence (m : StartIn) (s : State) : Host.Outcome State Fault Refusal := done (startInOk m) "START_UP_SEQUENCE" (startUp s m)

/-! ## Clocks (13 R533-R542) -/

/-- PLL_UNLOCK (13 R537). -/
def execPllUnlock (s : State) : Host.Outcome State Fault Refusal := .next (pllLost s)
/-- PLL_RELOCK (13 R538). -/
def execPllRelock (s : State) : Host.Outcome State Fault Refusal := .next (pllBack s)
/-- PLL_LOCK_TIMEOUT (13 R537). -/
def execPllLockTimeout (s : State) : Host.Outcome State Fault Refusal := .next (lockTimeout s)
/-- ROOT_LOSS (13 R537). -/
def execRootLoss (s : State) : Host.Outcome State Fault Refusal := .next (if s.rst.porHeld then s else porState s true false)
/-- SSC_DEPTH_APPLY (13 R539). -/
def execSscDepthApply (s : State) : Host.Outcome State Fault Refusal := .next (sscApply s)
/-- EPOCH_WRAP (13 R541). -/
def execEpochWrap (s : State) : Host.Outcome State Fault Refusal := .next (if s.rst.porHeld then s else wrapEpoch s)

/-! ## Power states (13 R544-R558) -/

/-- PWR_REQ_DOZE (13 R548). -/
def execPwrReqDoze (k : Fin 4) (s : State) : Host.Outcome State Fault Refusal := .next (writeReg s (.keeper k) (regAddr 2 0x000) 1)
/-- PWR_REQ_SLEEP (13 R549). -/
def execPwrReqSleep (k : Fin 4) (s : State) : Host.Outcome State Fault Refusal := .next (writeReg s (.keeper k) (regAddr 2 0x000) 2)
/-- PWR_REQ_RUN (13 R547). -/
def execPwrReqRun (k : Fin 4) (s : State) : Host.Outcome State Fault Refusal := .next (writeReg s (.keeper k) (regAddr 2 0x000) 0)
/-- PWR_ENTRY_TIMEOUT (13 R546). -/
def execPwrEntryTimeout (s : State) : Host.Outcome State Fault Refusal := .next (onBus s (entryTimeout s))
/-- DOZE_ENTER (13 R548). -/
def execDozeEnter (s : State) : Host.Outcome State Fault Refusal := .next (dozeStart s)
/-- SLEEP_ENTRY (13 R549). -/
def execSleepEntry (s : State) : Host.Outcome State Fault Refusal := .next (sleepEnter s)
/-- SLEEP_EXIT (13 R555). -/
def execSleepExit (s : State) : Host.Outcome State Fault Refusal := .next (sleepLeave s)
/-- PFW_START (13 R557). -/
def execPfwStart (s : State) (mv : Nat := 0) : Host.Outcome State Fault Refusal := .next (warnStart s mv)
/-- PFW_FLUSHED (13 R557). -/
def execPfwFlushed (s : State) : Host.Outcome State Fault Refusal := .next (warnFlush s)
/-- PFW_END (13 R558). -/
def execPfwEnd (s : State) (mv : Nat := 2400) : Host.Outcome State Fault Refusal := .next (warnEnd s mv)

/-! ## Resets (13 R559-R563; 16 R643) -/

/-- POR (13 R562). -/
def execPor (c : PorCause) (s : State) : Host.Outcome State Fault Refusal := .next (porState s (c == .rootLoss) (c == .pllLoss))
/-- NRST (13 R559). -/
def execNrst (s : State) : Host.Outcome State Fault Refusal := .next (nrstLow s)
/-- WARM_RESET (13 R560): steps 3 to 6. -/
def execWarmReset (left : List Nat) (s : State) : Host.Outcome State Fault Refusal := .next (warmReset s left)
/-- POR_RELEASE (16 R643). -/
def execPorRelease (st : Straps) (s : State) : Host.Outcome State Fault Refusal := .next (porReleased s st)
/-- NRST_RELEASE (13 R560). -/
def execNrstRelease (s : State) : Host.Outcome State Fault Refusal := .next (nrstHigh s)
/-- BOUNDARY_SCAN_EXTEST (16 R648). -/
def execBoundaryScanExtest (on : Bool) (s : State) : Host.Outcome State Fault Refusal := .next { s with pwr := { s.pwr with extest := on } }

/-! ## Self-test and repair (14 R578-R589) -/

/-- MEM_SLICE_START (14 R578). -/
def execMemSliceStart (s : State) : Host.Outcome State Fault Refusal := .next (memStart s)
/-- MEM_SLICE_END (14 R579). -/
def execMemSliceEnd (failing again : List (Fin 2048)) (s : State) : Host.Outcome State Fault Refusal :=
  .next (onBus s (memEnd s (failing.map (·.val)) (again.map (·.val))))
/-- BIST_REPAIR (14 R585). -/
def execBistRepair (r : Req) (v : Word) (s : State) : Host.Outcome State Fault Refusal := .next (writeReg s r (regAddr 20 0x024) v.toNat)
/-- DP_SLICE_START (14 R586). -/
def execDpSliceStart (s : State) : Host.Outcome State Fault Refusal := .next (dpBegin s)
/-- DP_SLICE_END (14 R587). -/
def execDpSliceEnd (signatureOk : Bool) (s : State) : Host.Outcome State Fault Refusal := .next (dpEnd s signatureOk)

/-! ## The locket (14 R592-R597) -/

/-- LK_K0_RST (14 R592). -/
def execLkK0Rst (k : Fin 4) (v : Word) (s : State) : Host.Outcome State Fault Refusal :=
  .next (writeReg s (.keeper k) (regAddr 21 0x020) v.toNat)
/-- K0_SEQUENCER_RESET (14 R593). -/
def execK0SequencerReset (left : Nat) (s : State) : Host.Outcome State Fault Refusal :=
  .next (onBus s (if s.rst.pending then s else seqReset s left))
/-- LK_COMMIT (14 R596): both parts of LEN. -/
def execLkCommit (k : Fin 4) (len : W32) (s : State) : Host.Outcome State Fault Refusal :=
  .next (writeWide s (.keeper k) (regAddr 21 0x004) len.toNat 2)
/-- LK_K0_OK (14 R594): LK_CTRL. -/
def execLkK0Ok (k : Fin 4) (s : State) : Host.Outcome State Fault Refusal := .next (writeReg s (.keeper k) (regAddr 21 0x002) 1)
/-- LK_CLEAR (14 R597): LK_CTRL. -/
def execLkClear (k : Fin 4) (s : State) : Host.Outcome State Fault Refusal := .next (writeReg s (.keeper k) (regAddr 21 0x002) 2)

/-! ## The hallmark (14 R602-R608) -/

/-- HM_KEY (14 R604). -/
def execHmKey (k : Fin 4) (v : Word) (s : State) : Host.Outcome State Fault Refusal :=
  .next (writeReg s (.keeper k) (regAddr 4 0x002) v.toNat)
/-- HM_ADVANCE (14 R605). -/
def execHmAdvance (k : Fin 4) (v : Word) (s : State) : Host.Outcome State Fault Refusal :=
  .next (writeReg s (.keeper k) (regAddr 4 0x004) v.toNat)
/-- HALLMARK_RESET (14 R605). -/
def execHallmarkReset (s : State) : Host.Outcome State Fault Refusal := .next (advanceDone s)
/-- HM_UPD (14 R608): both parts of the permit. -/
def execHmUpd (k : Fin 4) (v : W32) (s : State) : Host.Outcome State Fault Refusal :=
  .next (writeWide s (.keeper k) (regAddr 4 0x008) v.toNat 2)
/-- HM_UPD_TIMEOUT (14 R608). -/
def execHmUpdTimeout (s : State) : Host.Outcome State Fault Refusal := .next (updExpire s)

end Sys2Proof.Machine
end

