-- ==== Sys2Proof/Machine/Dispatch.lean ====
section
/-! DEFINITION. The one match from commands to their meanings. -/
namespace Sys2Proof.Machine

/-- The effect of a command on everything but the queue. -/
def exec (i : Instr) (s : State) : Host.Outcome State Fault Refusal :=
  match i with
  | .registerWrite r addr v => Sys2Proof.Machine.execRegisterWrite r addr v s
  | .wideValueLowRead r addr => Sys2Proof.Machine.execWideValueLowRead r addr s
  | .wideValueHighWrite r addr v => Sys2Proof.Machine.execWideValueHighWrite r addr v s
  | .keeperInstruction k => Sys2Proof.Machine.execKeeperInstruction k s
  | .keeperInterruptTaken k => Sys2Proof.Machine.execKeeperInterruptTaken k s
  | .keeperMret k => Sys2Proof.Machine.execKeeperMret k s
  | .keeperFence k => Sys2Proof.Machine.execKeeperFence k s
  | .keeperWfi k => Sys2Proof.Machine.execKeeperWfi k s
  | .storeBufferDrain k => Sys2Proof.Machine.execStoreBufferDrain k s
  | .trapDone k => Sys2Proof.Machine.execTrapDone k s
  | .keeperRelease k target => Sys2Proof.Machine.execKeeperRelease k target s
  | .keeperResetCmd k target => Sys2Proof.Machine.execKeeperResetCmd k target s
  | .keeperAloneReset k left => Sys2Proof.Machine.execKeeperAloneReset k left s
  | .mtimecmpMatch k => Sys2Proof.Machine.execMtimecmpMatch k s
  | .doorbell k ring => Sys2Proof.Machine.execDoorbell k ring s
  | .semRead k n => Sys2Proof.Machine.execSemRead k n s
  | .semWrite k n v => Sys2Proof.Machine.execSemWrite k n v s
  | .wdtKick k v => Sys2Proof.Machine.execWdtKick k v s
  | .wdtCfgWrite k v => Sys2Proof.Machine.execWdtCfgWrite k v s
  | .wdtWarn k => Sys2Proof.Machine.execWdtWarn k s
  | .wdtExpiry k => Sys2Proof.Machine.execWdtExpiry k s
  | .kicSourceInput src level => Sys2Proof.Machine.execKicSourceInput src level s
  | .kicPendingWrite r w v => Sys2Proof.Machine.execKicPendingWrite r w v s
  | .kicClaim k bank => Sys2Proof.Machine.execKicClaim k bank s
  | .kicClaimStallEnd bank => Sys2Proof.Machine.execKicClaimStallEnd bank s
  | .kicComplete k bank id => Sys2Proof.Machine.execKicComplete k bank id s
  | .kicFreeze k on => Sys2Proof.Machine.execKicFreeze k on s
  | .freezeTmo k => Sys2Proof.Machine.execFreezeTmo k s
  | .watchEvent w => Sys2Proof.Machine.execWatchEvent w s
  | .swapInstant m => Sys2Proof.Machine.execSwapInstant m s
  | .pairStateDecision p => Sys2Proof.Machine.execPairStateDecision p s
  | .holdLineMismatch line => Sys2Proof.Machine.execHoldLineMismatch line s
  | .modulatorOverload p => Sys2Proof.Machine.execModulatorOverload p s
  | .feCtrlWrite r v => Sys2Proof.Machine.execFeCtrlWrite r v s
  | .fePairEnWrite r w v => Sys2Proof.Machine.execFePairEnWrite r w v s
  | .feDchWrite r neg w v => Sys2Proof.Machine.execFeDchWrite r neg w v s
  | .cicOutput bits => Sys2Proof.Machine.execCicOutput bits s
  | .coarseDelivery => Sys2Proof.Machine.execCoarseDelivery s
  | .presetOutput mode => Sys2Proof.Machine.execPresetOutput mode s
  | .touchstoneOutput slow => Sys2Proof.Machine.execTouchstoneOutput slow s
  | .finalSampleDelivery => Sys2Proof.Machine.execFinalSampleDelivery s
  | .dcGo r w v => Sys2Proof.Machine.execDcGo r w v s
  | .dcChangeStart p => Sys2Proof.Machine.execDcChangeStart p s
  | .dcNextWrite r p v => Sys2Proof.Machine.execDcNextWrite r p v s
  | .dcRestart r w v => Sys2Proof.Machine.execDcRestart r w v s
  | .chainRestart p => Sys2Proof.Machine.execChainRestart p s
  | .streamRecordWrite stream => Sys2Proof.Machine.execStreamRecordWrite stream s
  | .ssDStatRead k => Sys2Proof.Machine.execSsDStatRead k s
  | .ssDTailWrite r v => Sys2Proof.Machine.execSsDTailWrite r v s
  | .ssDHeadWrite r v => Sys2Proof.Machine.execSsDHeadWrite r v s
  | .ssPcoarseWrite r coarse p v => Sys2Proof.Machine.execSsPcoarseWrite r coarse p v s
  | .armStream r v => Sys2Proof.Machine.execArmStream r v s
  | .armCheckEnd stream => Sys2Proof.Machine.execArmCheckEnd stream s
  | .disarmStream r v => Sys2Proof.Machine.execDisarmStream r v s
  | .ssLeaseAcquire k => Sys2Proof.Machine.execSsLeaseAcquire k s
  | .ssLeaseRelease k => Sys2Proof.Machine.execSsLeaseRelease k s
  | .ssLeaseExpiry => Sys2Proof.Machine.execSsLeaseExpiry s
  | .ssAlloc k v => Sys2Proof.Machine.execSsAlloc k v s
  | .ssAllocResult k => Sys2Proof.Machine.execSsAllocResult k s
  | .ssFree k v => Sys2Proof.Machine.execSsFree k v s
  | .ssRetire r v => Sys2Proof.Machine.execSsRetire r v s
  | .ssElogClr r v => Sys2Proof.Machine.execSsElogClr r v s
  | .imageScrubRead => Sys2Proof.Machine.execImageScrubRead s
  | .ssIscrubWrite r v => Sys2Proof.Machine.execSsIscrubWrite r v s
  | .imageRefetch o => Sys2Proof.Machine.execImageRefetch o s
  | .scrubRead g => Sys2Proof.Machine.execScrubRead g s
  | .scrubLapEnd => Sys2Proof.Machine.execScrubLapEnd s
  | .ssScrubCtrlWrite r v => Sys2Proof.Machine.execSsScrubCtrlWrite r v s
  | .arbiterRequest g port q => Sys2Proof.Machine.execArbiterRequest g port q s
  | .arbiterGrant g => Sys2Proof.Machine.execArbiterGrant g s
  | .grantWithdrawn g => Sys2Proof.Machine.execGrantWithdrawn g s
  | .burstComplete g => Sys2Proof.Machine.execBurstComplete g s
  | .burstResume g => Sys2Proof.Machine.execBurstResume g s
  | .holdCutoff g moved => Sys2Proof.Machine.execHoldCutoff g moved s
  | .requestRefused g port => Sys2Proof.Machine.execRequestRefused g port s
  | .hintRerequest g port => Sys2Proof.Machine.execHintRerequest g port s
  | .arbBlockClear r v => Sys2Proof.Machine.execArbBlockClear r v s
  | .settlingEnd pod => Sys2Proof.Machine.execSettlingEnd pod s
  | .impulseEnd pod => Sys2Proof.Machine.execImpulseEnd pod s
  | .blockedEnd pod => Sys2Proof.Machine.execBlockedEnd pod s
  | .long pod => Sys2Proof.Machine.execLong pod s
  | .stepsEnd pod => Sys2Proof.Machine.execStepsEnd pod s
  | .fall pod => Sys2Proof.Machine.execFall pod s
  | .tip pod => Sys2Proof.Machine.execTip pod s
  | .tipClear pod => Sys2Proof.Machine.execTipClear pod s
  | .refcap r pod v => Sys2Proof.Machine.execRefcap r pod v s
  | .rcCfgWrite r pod v => Sys2Proof.Machine.execRcCfgWrite r pod v s
  | .recognizerEventDrain => Sys2Proof.Machine.execRecognizerEventDrain s
  | .recordFetch => Sys2Proof.Machine.execRecordFetch s
  | .charmTimerExpiry => Sys2Proof.Machine.execCharmTimerExpiry s
  | .activationStart lane => Sys2Proof.Machine.execActivationStart lane s
  | .stepLimit lane => Sys2Proof.Machine.execStepLimit lane s
  | .halt lane => Sys2Proof.Machine.execHalt lane s
  | .li lane => Sys2Proof.Machine.execLi lane s
  | .mov lane => Sys2Proof.Machine.execMov lane s
  | .add lane => Sys2Proof.Machine.execAdd lane s
  | .sub lane => Sys2Proof.Machine.execSub lane s
  | .addi lane => Sys2Proof.Machine.execAddi lane s
  | .abs lane => Sys2Proof.Machine.execAbs lane s
  | .min lane => Sys2Proof.Machine.execMin lane s
  | .max lane => Sys2Proof.Machine.execMax lane s
  | .mulq lane => Sys2Proof.Machine.execMulq lane s
  | .sra lane => Sys2Proof.Machine.execSra lane s
  | .and lane => Sys2Proof.Machine.execAnd lane s
  | .or lane => Sys2Proof.Machine.execOr lane s
  | .andi lane => Sys2Proof.Machine.execAndi lane s
  | .ema lane => Sys2Proof.Machine.execEma lane s
  | .clrp lane => Sys2Proof.Machine.execClrp lane s
  | .ldr lane => Sys2Proof.Machine.execLdr lane s
  | .lds lane => Sys2Proof.Machine.execLds lane s
  | .ldsx lane => Sys2Proof.Machine.execLdsx lane s
  | .ldf lane => Sys2Proof.Machine.execLdf lane s
  | .ldfx lane => Sys2Proof.Machine.execLdfx lane s
  | .ldc lane => Sys2Proof.Machine.execLdc lane s
  | .ldq lane => Sys2Proof.Machine.execLdq lane s
  | .ldp lane => Sys2Proof.Machine.execLdp lane s
  | .ldk lane => Sys2Proof.Machine.execLdk lane s
  | .b lane => Sys2Proof.Machine.execB lane s
  | .beq lane => Sys2Proof.Machine.execBeq lane s
  | .bne lane => Sys2Proof.Machine.execBne lane s
  | .blt lane => Sys2Proof.Machine.execBlt lane s
  | .bge lane => Sys2Proof.Machine.execBge lane s
  | .bz lane => Sys2Proof.Machine.execBz lane s
  | .bnz lane => Sys2Proof.Machine.execBnz lane s
  | .bltz lane => Sys2Proof.Machine.execBltz lane s
  | .bbs lane => Sys2Proof.Machine.execBbs lane s
  | .bbc lane => Sys2Proof.Machine.execBbc lane s
  | .bp lane => Sys2Proof.Machine.execBp lane s
  | .jcs lane => Sys2Proof.Machine.execJcs lane s
  | .jst lane => Sys2Proof.Machine.execJst lane s
  | .sst lane => Sys2Proof.Machine.execSst lane s
  | .sstv lane => Sys2Proof.Machine.execSstv lane s
  | .tset lane => Sys2Proof.Machine.execTset lane s
  | .tseti lane => Sys2Proof.Machine.execTseti lane s
  | .cls lane => Sys2Proof.Machine.execCls lane s
  | .hold lane => Sys2Proof.Machine.execHold lane s
  | .vout lane => Sys2Proof.Machine.execVout lane s
  | .loop lane => Sys2Proof.Machine.execLoop lane s
  | .emit lane => Sys2Proof.Machine.execEmit lane s
  | .mark lane => Sys2Proof.Machine.execMark lane s
  | .sig lane => Sys2Proof.Machine.execSig lane s
  | .illegalOp lane => Sys2Proof.Machine.execIllegalOp lane s
  | .charmRecordWrite => Sys2Proof.Machine.execCharmRecordWrite s
  | .ceCtrlWrite r v => Sys2Proof.Machine.execCeCtrlWrite r v s
  | .ceLeaseAcquire k => Sys2Proof.Machine.execCeLeaseAcquire k s
  | .ceLeaseRelease k => Sys2Proof.Machine.execCeLeaseRelease k s
  | .ceLeaseExpiry => Sys2Proof.Machine.execCeLeaseExpiry s
  | .ceICtrlWrite r v => Sys2Proof.Machine.execCeICtrlWrite r v s
  | .ceSrcWrite r n v => Sys2Proof.Machine.execCeSrcWrite r n v s
  | .ceClassWrite r w v => Sys2Proof.Machine.execCeClassWrite r w v s
  | .ceSlackWrite r lane v => Sys2Proof.Machine.execCeSlackWrite r lane v s
  | .startBit port => Sys2Proof.Machine.execStartBit port s
  | .characterReceived port byte parityBad stopLow => Sys2Proof.Machine.execCharacterReceived port byte parityBad stopLow s
  | .breakRx port => Sys2Proof.Machine.execBreakRx port s
  | .idleGap port => Sys2Proof.Machine.execIdleGap port s
  | .frameRecordWrite => Sys2Proof.Machine.execFrameRecordWrite s
  | .ipCtrlWrite r port v => Sys2Proof.Machine.execIpCtrlWrite r port v s
  | .txdata r port v => Sys2Proof.Machine.execTxdata r port v s
  | .characterSent port => Sys2Proof.Machine.execCharacterSent port s
  | .ilCmdWrite r w v => Sys2Proof.Machine.execIlCmdWrite r w v s
  | .voCodeWrite r n v => Sys2Proof.Machine.execVoCodeWrite r n v s
  | .voutUpdate => Sys2Proof.Machine.execVoutUpdate s
  | .loCmdWrite r n v => Sys2Proof.Machine.execLoCmdWrite r n v s
  | .compliance n => Sys2Proof.Machine.execCompliance n s
  | .loStatClear r n v => Sys2Proof.Machine.execLoStatClear r n v s
  | .tick m => Sys2Proof.Machine.execTick m s
  | .pwrTjMaxWrite r v => Sys2Proof.Machine.execPwrTjMaxWrite r v s
  | .bcPoll h payload => Sys2Proof.Machine.execBcPoll h payload s
  | .bcStatus h payload => Sys2Proof.Machine.execBcStatus h payload s
  | .bcStreamStat h payload => Sys2Proof.Machine.execBcStreamStat h payload s
  | .bcStreamRead h payload => Sys2Proof.Machine.execBcStreamRead h payload s
  | .bcStreamAck h payload => Sys2Proof.Machine.execBcStreamAck h payload s
  | .bcClassRead h payload => Sys2Proof.Machine.execBcClassRead h payload s
  | .bcOutputRead h payload => Sys2Proof.Machine.execBcOutputRead h payload s
  | .bcSensRead h payload => Sys2Proof.Machine.execBcSensRead h payload s
  | .bcMail h payload => Sys2Proof.Machine.execBcMail h payload s
  | .bcLocketRead h payload => Sys2Proof.Machine.execBcLocketRead h payload s
  | .bcImgWrite h payload => Sys2Proof.Machine.execBcImgWrite h payload s
  | .bcWake h payload => Sys2Proof.Machine.execBcWake h payload s
  | .bcReset h payload => Sys2Proof.Machine.execBcReset h payload s
  | .bcCall h payload => Sys2Proof.Machine.execBcCall h payload s
  | .bcUnknownType h type payload => Sys2Proof.Machine.execBcUnknownType h type payload s
  | .bcFrameDiscard e => Sys2Proof.Machine.execBcFrameDiscard e s
  | .bcReplySend startBitFirst => Sys2Proof.Machine.execBcReplySend startBitFirst s
  | .bcNoticeSend => Sys2Proof.Machine.execBcNoticeSend s
  | .bcMailGo r v => Sys2Proof.Machine.execBcMailGo r v s
  | .bcMailWaitExpiry => Sys2Proof.Machine.execBcMailWaitExpiry s
  | .bcRateSwitch => Sys2Proof.Machine.execBcRateSwitch s
  | .bcWinClr r v => Sys2Proof.Machine.execBcWinClr r v s
  | .chainReset => Sys2Proof.Machine.execChainReset s
  | .twPoll args => Sys2Proof.Machine.execTwPoll args s
  | .twStatus args => Sys2Proof.Machine.execTwStatus args s
  | .twStreamStat args => Sys2Proof.Machine.execTwStreamStat args s
  | .twStreamRead args => Sys2Proof.Machine.execTwStreamRead args s
  | .twStreamAck args pec => Sys2Proof.Machine.execTwStreamAck args pec s
  | .twClassRead args => Sys2Proof.Machine.execTwClassRead args s
  | .twOutputRead args => Sys2Proof.Machine.execTwOutputRead args s
  | .twSensRead args => Sys2Proof.Machine.execTwSensRead args s
  | .mailPut args pec => Sys2Proof.Machine.execMailPut args pec s
  | .twLocketRead args => Sys2Proof.Machine.execTwLocketRead args s
  | .twImgWrite args pec => Sys2Proof.Machine.execTwImgWrite args pec s
  | .twReset args pec => Sys2Proof.Machine.execTwReset args pec s
  | .result args => Sys2Proof.Machine.execResult args s
  | .lastErr args => Sys2Proof.Machine.execLastErr args s
  | .alertResponse others addrByteDone => Sys2Proof.Machine.execAlertResponse others addrByteDone s
  | .twProtocolError e => Sys2Proof.Machine.execTwProtocolError e s
  | .twReadDiscard cmd => Sys2Proof.Machine.execTwReadDiscard cmd s
  | .twSclTimeout => Sys2Proof.Machine.execTwSclTimeout s
  | .alertLatch => Sys2Proof.Machine.execAlertLatch s
  | .twMailGo r v => Sys2Proof.Machine.execTwMailGo r v s
  | .twAlertClr r v => Sys2Proof.Machine.execTwAlertClr r v s
  | .twWinClr r v => Sys2Proof.Machine.execTwWinClr r v s
  | .eepromRead fail => Sys2Proof.Machine.execEepromRead fail s
  | .eepromReadRetry fail => Sys2Proof.Machine.execEepromReadRetry fail s
  | .eepromWrite stuck => Sys2Proof.Machine.execEepromWrite stuck s
  | .storeFinish => Sys2Proof.Machine.execStoreFinish s
  | .storeNoack => Sys2Proof.Machine.execStoreNoack s
  | .imgLeaseAcquire k => Sys2Proof.Machine.execImgLeaseAcquire k s
  | .imgLeaseRelease k => Sys2Proof.Machine.execImgLeaseRelease k s
  | .imgLeaseExpiry => Sys2Proof.Machine.execImgLeaseExpiry s
  | .imgReqRead k => Sys2Proof.Machine.execImgReqRead k s
  | .imgReqStore k => Sys2Proof.Machine.execImgReqStore k s
  | .startUpSequence m => Sys2Proof.Machine.execStartUpSequence m s
  | .pllUnlock => Sys2Proof.Machine.execPllUnlock s
  | .pllRelock => Sys2Proof.Machine.execPllRelock s
  | .pllLockTimeout => Sys2Proof.Machine.execPllLockTimeout s
  | .rootLoss => Sys2Proof.Machine.execRootLoss s
  | .sscDepthApply => Sys2Proof.Machine.execSscDepthApply s
  | .epochWrap => Sys2Proof.Machine.execEpochWrap s
  | .pwrReqDoze k => Sys2Proof.Machine.execPwrReqDoze k s
  | .pwrReqSleep k => Sys2Proof.Machine.execPwrReqSleep k s
  | .pwrReqRun k => Sys2Proof.Machine.execPwrReqRun k s
  | .pwrEntryTimeout => Sys2Proof.Machine.execPwrEntryTimeout s
  | .dozeEnter => Sys2Proof.Machine.execDozeEnter s
  | .sleepEntry => Sys2Proof.Machine.execSleepEntry s
  | .sleepExit => Sys2Proof.Machine.execSleepExit s
  | .pfwStart mv => Sys2Proof.Machine.execPfwStart s mv
  | .pfwFlushed => Sys2Proof.Machine.execPfwFlushed s
  | .pfwEnd mv => Sys2Proof.Machine.execPfwEnd s mv
  | .por c => Sys2Proof.Machine.execPor c s
  | .nrst => Sys2Proof.Machine.execNrst s
  | .warmReset left => Sys2Proof.Machine.execWarmReset left s
  | .memSliceStart => Sys2Proof.Machine.execMemSliceStart s
  | .memSliceEnd failing again => Sys2Proof.Machine.execMemSliceEnd failing again s
  | .bistRepair r v => Sys2Proof.Machine.execBistRepair r v s
  | .dpSliceStart => Sys2Proof.Machine.execDpSliceStart s
  | .dpSliceEnd signatureOk => Sys2Proof.Machine.execDpSliceEnd signatureOk s
  | .lkK0Rst k v => Sys2Proof.Machine.execLkK0Rst k v s
  | .k0SequencerReset left => Sys2Proof.Machine.execK0SequencerReset left s
  | .lkCommit k len => Sys2Proof.Machine.execLkCommit k len s
  | .lkK0Ok k => Sys2Proof.Machine.execLkK0Ok k s
  | .lkClear k => Sys2Proof.Machine.execLkClear k s
  | .hmKey k v => Sys2Proof.Machine.execHmKey k v s
  | .hmAdvance k v => Sys2Proof.Machine.execHmAdvance k v s
  | .hallmarkReset => Sys2Proof.Machine.execHallmarkReset s
  | .hmUpd k v => Sys2Proof.Machine.execHmUpd k v s
  | .hmUpdTimeout => Sys2Proof.Machine.execHmUpdTimeout s
  | .debugHalt k => Sys2Proof.Machine.execDebugHalt k s
  | .debugResume k m => Sys2Proof.Machine.execDebugResume k m s
  | .porRelease st => Sys2Proof.Machine.execPorRelease st s
  | .nrstRelease => Sys2Proof.Machine.execNrstRelease s
  | .breakEnd port => Sys2Proof.Machine.execBreakEnd port s
  | .stopCondition => Sys2Proof.Machine.execStopCondition s
  | .boundaryScanExtest on => Sys2Proof.Machine.execBoundaryScanExtest on s

end Sys2Proof.Machine
end

