-- ==== Sys2Proof/Machine/Balls.lean ====
section
/-! DEFINITION. What the hub drives at its signal balls, as a function of the state (02 R69, R75, R88; 09 R405, R408, R411;
11 R466, R488; 13 R545; 16 R639, R648). Voltages that lie outside the hub are arguments. -/
namespace Sys2Proof.Machine

/-- A ball that the hub drives. -/
inductive Ball where
  /-- the guard of a pod -/
  | gd (pod : Nat)
  /-- the excitation balls of a pair -/
  | exp (pair : Nat)
  | exn (pair : Nat)
  | il (line : Nat)
  | vout (n : Nat)
  /-- the sink of a loop output -/
  | loop (n : Nat)
  | ipDe (port : Nat)
  | twAlertN
  deriving DecidableEq, Repr

/-- How a ball is driven. -/
inductive Drive where
  /-- high impedance -/
  | hiZ
  /-- held low by the passive pull-down -/
  | pulledLow
  | low
  | high
  /-- at a voltage in mV -/
  | volts (mv : Rat)
  /-- a current sunk, in µA -/
  | sinks (ua : Nat)
  /-- a current sunk of at most so much, in µA -/
  | sinksAtMost (ua : Nat)
  /-- the boundary-scan cell drives the ball -/
  | scan
  deriving DecidableEq, Repr

/-- The unit of the ball is present (01 R48; 16 R639). -/
def ballPresent (s : State) : Ball → Bool
  | .gd p => decide (p < nPods s)
  | .exp p | .exn p => decide (p < nPairs s)
  | .il n => decide (n < nLines s)
  | .vout n => decide (n < nVouts s)
  | .loop n => decide (n < nLoops s)
  | .ipDe n => decide (n < nPorts s)
  | .twAlertN => true

/-- AVDD_EX, in mV, is within its operating range (16 R641). -/
def avddExOk (mv : Nat) : Bool := decide (2450 ≤ mv) && decide (mv ≤ 2550)

/-- VOUT at a RATIO_REF of `ref` mV (09 R408). -/
def voutMv (code : Word) (ref : Nat) : Rat := ref * (code.toInt + 32768) / 65536

/-- The period whose phase the excitation balls show: the present one, or the one in which FE_CLK stopped (13 R538). -/
def drivenPer (s : State) : Nat := match s.pwr.unlockAt with | some t => t / 32 | none => s.per

/-- The ball that carries AVDD_EX is EXP: the pair is in the positive phase (02 R72). -/
def expHigh (s : State) (p : Nat) : Bool := fePositive s p (drivenPer s)

/-- An excitation ball: both are at ground while the pair is OFF, else one carries AVDD_EX (02 R75). -/
def excitation (s : State) (p avddEx : Nat) (high : Bool) : Drive :=
  if (s.pfe p).st == .off then .volts 0 else if high then .volts avddEx else .volts 0

/-- The excitation current of a pair whose bridge would draw `ua` µA: limited to 16 mA in every state, SHORT included (02 R88). -/
def exCurrent (s : State) (p ua : Nat) : Nat := if (s.pfe p).st == .off then 0 else min ua 16000

/-- TW_ALERT_N is asserted while the latch is set and the hub answers on the port (11 R466, R488). -/
def twAlertBall (s : State) : Drive := if linksAnswer s && s.pwr.st != .sleep && twAlertOn s then .low else .hiZ

/-- While a POR holds, and in OFF (16 R648; DEDUCED, log 67). -/
def ballAtPor : Ball → Drive
  | .ipDe _ => .pulledLow
  | .loop _ => .sinksAtMost 10
  | _ => .hiZ

/-- The ball as its unit drives it. -/
def ballRuns (s : State) (avddEx ref : Nat) : Ball → Drive
  | .gd _ => if avddExOk avddEx then .volts ((avddEx : Rat) / 2) else .hiZ
  | .exp p => excitation s p avddEx (expHigh s p)
  | .exn p => excitation s p avddEx (!expHigh s p)
  | .il n => if bitAt s.io.ilCmd n then .low else .hiZ
  | .vout n => .volts (voutMv (tget 0x8000 s.io.voOut n) ref)
  | .loop n => .sinks (s.lout n).applied
  | .ipDe n => if (s.port n).de then .high else .low
  | .twAlertN => twAlertBall s

/-- What the hub drives at a ball, with AVDD_EX and RATIO_REF in mV: EXTEST overrides every ball (16 R648), a ball of an absent
unit is never driven (R639). -/
def ballDrive (s : State) (avddEx ref : Nat) (b : Ball) : Drive :=
  if s.pwr.extest then .scan
  else if !ballPresent s b then .hiZ
  else if s.rst.porHeld then ballAtPor b
  else ballRuns s avddEx ref b

end Sys2Proof.Machine
end

