-- ==== Sys2Proof/WellFormed.lean ====
section
/-! DEFINITION. Which commands are commands of the hub: those whose operands the hub or what lies around it can present.
Any other is refused by name. The checks themselves are Machine/Operands.lean's. -/
namespace Sys2Proof

open Sys2Proof.Machine

/-- The command's operands are well formed. -/
def wellFormed (i : Instr) : Bool :=
  match i with
  | .registerWrite _ a _ => regOk a
  | .wideValueLowRead _ a => lowPart a
  | .wideValueHighWrite _ a _ => highPart a
  | .keeperInstruction _ => true
  | .keeperInterruptTaken _ => true
  | .keeperMret _ => true
  | .keeperFence _ => true
  | .keeperWfi _ => true
  | .storeBufferDrain _ => true
  | .trapDone _ => true
  | .keeperRelease _ n => targetOk n
  | .keeperResetCmd _ n => targetOk n
  | .keeperAloneReset _ _ => true
  | .mtimecmpMatch _ => true
  | .doorbell _ _ => true
  | .semRead _ _ => true
  | .semWrite _ _ _ => true
  | .wdtKick _ _ => true
  | .wdtCfgWrite _ _ => true
  | .wdtWarn _ => true
  | .wdtExpiry _ => true
  | .kicSourceInput _ _ => true
  | .kicPendingWrite _ _ _ => true
  | .kicClaim _ _ => true
  | .kicClaimStallEnd _ => true
  | .kicComplete _ _ _ => true
  | .kicFreeze _ _ => true
  | .freezeTmo _ => true
  | .watchEvent _ => true
  | .swapInstant m => swapInOk m
  | .pairStateDecision _ => true
  | .holdLineMismatch _ => true
  | .modulatorOverload _ => true
  | .feCtrlWrite _ _ => true
  | .fePairEnWrite _ _ _ => true
  | .feDchWrite _ _ _ _ => true
  | .cicOutput b => bitsOk b
  | .coarseDelivery => true
  | .presetOutput _ => true
  | .touchstoneOutput _ => true
  | .finalSampleDelivery => true
  | .dcGo _ _ _ => true
  | .dcChangeStart _ => true
  | .dcNextWrite _ _ _ => true
  | .dcRestart _ _ _ => true
  | .chainRestart _ => true
  | .streamRecordWrite _ => true
  | .ssDStatRead _ => true
  | .ssDTailWrite _ _ => true
  | .ssDHeadWrite _ _ => true
  | .ssPcoarseWrite _ _ _ _ => true
  | .armStream _ v => armedBit v
  | .armCheckEnd _ => true
  | .disarmStream _ v => !armedBit v
  | .ssLeaseAcquire _ => true
  | .ssLeaseRelease _ => true
  | .ssLeaseExpiry => true
  | .ssAlloc _ _ => true
  | .ssAllocResult _ => true
  | .ssFree _ _ => true
  | .ssRetire _ _ => true
  | .ssElogClr _ _ => true
  | .imageScrubRead => true
  | .ssIscrubWrite _ _ => true
  | .imageRefetch _ => true
  | .scrubRead _ => true
  | .scrubLapEnd => true
  | .ssScrubCtrlWrite _ _ => true
  | .arbiterRequest _ _ q => requestOk q
  | .arbiterGrant _ => true
  | .grantWithdrawn _ => true
  | .burstComplete _ => true
  | .burstResume _ => true
  | .holdCutoff _ _ => true
  | .requestRefused _ _ => true
  | .hintRerequest _ p => readoutOk p
  | .arbBlockClear _ _ => true
  | .settlingEnd _ => true
  | .impulseEnd _ => true
  | .blockedEnd _ => true
  | .long _ => true
  | .stepsEnd _ => true
  | .fall _ => true
  | .tip _ => true
  | .tipClear _ => true
  | .refcap _ _ _ => true
  | .rcCfgWrite _ _ _ => true
  | .recognizerEventDrain => true
  | .recordFetch => true
  | .charmTimerExpiry => true
  | .activationStart _ => true
  | .stepLimit _ => true
  | .halt _ => true
  | .li _ => true
  | .mov _ => true
  | .add _ => true
  | .sub _ => true
  | .addi _ => true
  | .abs _ => true
  | .min _ => true
  | .max _ => true
  | .mulq _ => true
  | .sra _ => true
  | .and _ => true
  | .or _ => true
  | .andi _ => true
  | .ema _ => true
  | .clrp _ => true
  | .ldr _ => true
  | .lds _ => true
  | .ldsx _ => true
  | .ldf _ => true
  | .ldfx _ => true
  | .ldc _ => true
  | .ldq _ => true
  | .ldp _ => true
  | .ldk _ => true
  | .b _ => true
  | .beq _ => true
  | .bne _ => true
  | .blt _ => true
  | .bge _ => true
  | .bz _ => true
  | .bnz _ => true
  | .bltz _ => true
  | .bbs _ => true
  | .bbc _ => true
  | .bp _ => true
  | .jcs _ => true
  | .jst _ => true
  | .sst _ => true
  | .sstv _ => true
  | .tset _ => true
  | .tseti _ => true
  | .cls _ => true
  | .hold _ => true
  | .vout _ => true
  | .loop _ => true
  | .emit _ => true
  | .mark _ => true
  | .sig _ => true
  | .illegalOp _ => true
  | .charmRecordWrite => true
  | .ceCtrlWrite _ _ => true
  | .ceLeaseAcquire _ => true
  | .ceLeaseRelease _ => true
  | .ceLeaseExpiry => true
  | .ceICtrlWrite _ _ => true
  | .ceSrcWrite _ _ _ => true
  | .ceClassWrite _ _ _ => true
  | .ceSlackWrite _ _ _ => true
  | .startBit _ => true
  | .characterReceived _ _ _ _ => true
  | .breakRx _ => true
  | .idleGap _ => true
  | .frameRecordWrite => true
  | .ipCtrlWrite _ _ _ => true
  | .txdata _ _ _ => true
  | .characterSent _ => true
  | .ilCmdWrite _ _ _ => true
  | .voCodeWrite _ _ _ => true
  | .voutUpdate => true
  | .loCmdWrite _ _ _ => true
  | .compliance _ => true
  | .loStatClear _ _ _ => true
  | .tick m => tickInOk m
  | .pwrTjMaxWrite _ _ => true
  | .bcPoll _ p => payloadOk p
  | .bcStatus _ p => payloadOk p
  | .bcStreamStat _ p => payloadOk p
  | .bcStreamRead _ p => payloadOk p
  | .bcStreamAck _ p => payloadOk p
  | .bcClassRead _ p => payloadOk p
  | .bcOutputRead _ p => payloadOk p
  | .bcSensRead _ p => payloadOk p
  | .bcMail _ p => payloadOk p
  | .bcLocketRead _ p => payloadOk p
  | .bcImgWrite _ p => payloadOk p
  | .bcWake _ p => payloadOk p
  | .bcReset _ p => payloadOk p
  | .bcCall _ p => payloadOk p
  | .bcUnknownType _ t p => payloadOk p && unknownType t
  | .bcFrameDiscard _ => true
  | .bcReplySend _ => true
  | .bcNoticeSend => true
  | .bcMailGo _ _ => true
  | .bcMailWaitExpiry => true
  | .bcRateSwitch => true
  | .bcWinClr _ _ => true
  | .chainReset => true
  | .twPoll _ => true
  | .twStatus _ => true
  | .twStreamStat _ => true
  | .twStreamRead _ => true
  | .twStreamAck _ _ => true
  | .twClassRead _ => true
  | .twOutputRead _ => true
  | .twSensRead _ => true
  | .mailPut _ _ => true
  | .twLocketRead _ => true
  | .twImgWrite _ _ => true
  | .twReset _ _ => true
  | .result _ => true
  | .lastErr _ => true
  | .alertResponse _ _ => true
  | .twProtocolError e => protoOk e
  | .twReadDiscard _ => true
  | .twSclTimeout => true
  | .alertLatch => true
  | .twMailGo _ _ => true
  | .twAlertClr _ _ => true
  | .twWinClr _ _ => true
  | .eepromRead _ => true
  | .eepromReadRetry _ => true
  | .eepromWrite _ => true
  | .storeFinish => true
  | .storeNoack => true
  | .imgLeaseAcquire _ => true
  | .imgLeaseRelease _ => true
  | .imgLeaseExpiry => true
  | .imgReqRead _ => true
  | .imgReqStore _ => true
  | .startUpSequence m => startInOk m
  | .pllUnlock => true
  | .pllRelock => true
  | .pllLockTimeout => true
  | .rootLoss => true
  | .sscDepthApply => true
  | .epochWrap => true
  | .pwrReqDoze _ => true
  | .pwrReqSleep _ => true
  | .pwrReqRun _ => true
  | .pwrEntryTimeout => true
  | .dozeEnter => true
  | .sleepEntry => true
  | .sleepExit => true
  | .pfwStart _ => true
  | .pfwFlushed => true
  | .pfwEnd _ => true
  | .por _ => true
  | .nrst => true
  | .warmReset _ => true
  | .memSliceStart => true
  | .memSliceEnd _ _ => true
  | .bistRepair _ _ => true
  | .dpSliceStart => true
  | .dpSliceEnd _ => true
  | .lkK0Rst _ _ => true
  | .k0SequencerReset _ => true
  | .lkCommit _ _ => true
  | .lkK0Ok _ => true
  | .lkClear _ => true
  | .hmKey _ _ => true
  | .hmAdvance _ _ => true
  | .hallmarkReset => true
  | .hmUpd _ _ => true
  | .hmUpdTimeout => true
  | .debugHalt _ => true
  | .debugResume _ m => debugInOk m
  | .porRelease _ => true
  | .nrstRelease => true
  | .breakEnd _ => true
  | .stopCondition => true
  | .boundaryScanExtest _ => true

end Sys2Proof
end

