-- ==== Sys2Proof/Safety.lean ====
section
/-! DEFINITION. What a safe run keeps, and the conditions that the statements name: the canonical form of the memories, the
alignment of the keepers' pcs, the capacities of the queues, who may write a register, and code in image RAM. -/
namespace Sys2Proof.Machine

/-- Every memory and every table of parity marks is in its canonical form, the EEPROM's with 0xFF for a byte not listed. -/
def Memory.wf (s : State) : Bool :=
  tabWf memDefault s.iram && tabWf memDefault s.wram && tabWf memDefault s.store && tabWf false s.iramBad && tabWf false s.wramBad &&
  tabWf false s.storeBad && tabWf 0xFF#8 s.img.eeprom

/-- The pc, the saved pc and the entry address of every present keeper are even (08 R340: instructions are 2 or 4 bytes long). -/
def pcsEven (s : State) : Prop :=
  ∀ k, k < nKeepers s → (s.keeper k).pc.toNat % 2 = 0 ∧ (s.keeper k).mepc.toNat % 2 = 0 ∧ (entryOf s k).toNat % 2 = 0

/-- No queue of the hub holds more than its capacity: the recognizer queue (06 R276), each background queue (07 R297), the
charm engine's write queue (07 R320), each transmit FIFO (09 R402) and each store buffer (08 R345). -/
def queuesFit (s : State) : Prop :=
  s.rc.queue.length ≤ 64 ∧ s.ce.bg0.length ≤ 128 ∧ s.ce.bg1.length ≤ 128 ∧ s.ce.wq.length ≤ 64 ∧
  (∀ p, (s.port p).txFifo.length ≤ 32) ∧ (∀ k, (s.keeper k).sbuf.length ≤ 8)

/-- Requester `r` makes a register write that takes effect: a keeper that executes, or the loader while it loads. -/
def mayWrite (s : State) (r : Req) : Bool := reqActs s r && reqKeeper r != 4

/-- REGISTER_WRITE of `v` by `r` to each address is answered with the state beside it. -/
def storesTo (r : Req) (v : Word) (s : State) (rows : List (W32 × State)) : Prop :=
  ∀ e ∈ rows, exec (.registerWrite r e.1 v) s = .next e.2

/-- A read of each register by `r` gives the word beside it and changes nothing. -/
def readsAs (r : Req) (s : State) (rows : List (W32 × Nat)) : Prop := ∀ e ∈ rows, regRead s r e.1.toNat = (e.2, s)

/-- A write-1-to-clear register after a write of `v`, where it held `was` when the BUS_CLK cycle began: a bit written 1 is
cleared, but for one that the hub has set in this cycle (00 R17, R22). -/
def cleared {n : Nat} (now was : BitVec n) (v : Word) : BitVec n := now &&& ~~~(v.setWidth n &&& was)

/-- Word `w` of a write-1-to-clear bitmap, likewise. -/
def clearedWord {n : Nat} (now was : BitVec n) (w : Nat) (v : Word) : BitVec n := now &&& ~~~((v.setWidth n <<< (16 * w)) &&& was)

/-- The requester of a command that is one requester's access to a register. -/
def registerCommand : Instr → Option Req
  | .registerWrite r _ _ | .wideValueHighWrite r _ _ | .kicPendingWrite r _ _ | .feCtrlWrite r _ | .fePairEnWrite r _ _
  | .feDchWrite r _ _ _ | .dcGo r _ _ | .dcNextWrite r _ _ | .dcRestart r _ _ | .ssDTailWrite r _ | .ssDHeadWrite r _
  | .ssPcoarseWrite r _ _ _ | .armStream r _ | .disarmStream r _ | .ssRetire r _ | .ssElogClr r _ | .ssIscrubWrite r _
  | .ssScrubCtrlWrite r _ | .arbBlockClear r _ | .refcap r _ _ | .rcCfgWrite r _ _ | .ceCtrlWrite r _ | .ceICtrlWrite r _
  | .ceSrcWrite r _ _ | .ceClassWrite r _ _ | .ceSlackWrite r _ _ | .ipCtrlWrite r _ _ | .txdata r _ _ | .ilCmdWrite r _ _
  | .voCodeWrite r _ _ | .loCmdWrite r _ _ | .loStatClear r _ _ | .pwrTjMaxWrite r _ | .bcMailGo r _ | .bcWinClr r _
  | .twMailGo r _ | .twAlertClr r _ | .twWinClr r _ | .bistRepair r _ => some r
  | .trapDone k | .keeperRelease k _ | .keeperResetCmd k _ | .doorbell k _ | .semRead k _ | .semWrite k _ _ | .wdtKick k _
  | .wdtCfgWrite k _ | .kicClaim k _ | .kicComplete k _ _ | .kicFreeze k _ | .ssDStatRead k | .ssLeaseAcquire k
  | .ssLeaseRelease k | .ssAlloc k _ | .ssFree k _ | .ceLeaseAcquire k | .ceLeaseRelease k | .imgLeaseAcquire k
  | .imgLeaseRelease k | .imgReqRead k | .imgReqStore k | .pwrReqDoze k | .pwrReqSleep k | .pwrReqRun k | .lkK0Rst k _
  | .lkCommit k _ | .lkK0Ok k | .lkClear k | .hmKey k _ | .hmAdvance k _ | .hmUpd k _ => some (.keeper k)
  | _ => none

/-- The 32-bit instruction `w` stands in image RAM at the even pc of keeper `k`, with good parity. -/
def codeAt (s : State) (k : Nat) (w : Nat) : Bool :=
  let a := (s.keeper k).pc.toNat
  a % 2 == 0 && decide (a + 4 ≤ iramSize) && !badLE .iram s a 4 && getLE .iram s a 4 == w && w % 4 == 3

/-- How stream `n` and the sample store of `t` follow from `s` when the writer of arbiter port `port`, which has no GAP
record to write, writes a complete record of at most 2,048 words at instant `e` (04 R177-R179, R189): the record lies within
one page, the rest of a page too short for it is skipped by one END word, and HEAD passes both. Where the record does not fit
and OVERWRITE is 0 it is discarded with a GAP of reason 2; where it fits and the port is `blocked`, with one of reason 3; with
OVERWRITE, TAIL first moves on to the next page boundary that leaves room. No other stream and no other word changes. -/
def recordWritten (s t : State) (port : Nat) (blocked : Bool) (n : Fin 256) (e : Nat) (words : List Word) : Prop :=
  let st := s.strm n
  let u := t.strm n
  let cap := strmCap st
  let level := strmLevel st
  let pad := if st.head % 2048 + words.length ≤ 2048 then 0 else 2048 - st.head % 2048
  let total := pad + words.length
  let fits := level + total ≤ cap
  let place (i : Nat) : Nat := posWord s st (st.head + pad + i)
  let stored : Prop :=
    u.head = (st.head + total) % strmWrap st ∧ u.gaps = st.gaps ∧
    (∀ i, i < words.length → storeWord t (place i) = nth 0 words i ∧ storePois t (place i) = false) ∧
    (pad ≠ 0 → (∀ i, i < words.length → place i ≠ posWord s st st.head) → storeWord t (posWord s st st.head) = 0) ∧
    (∀ w, (∀ i, i < words.length → place i ≠ w) → (pad = 0 ∨ w ≠ posWord s st st.head) →
      storeWord t w = storeWord s w ∧ storePois t w = storePois s w)
  let discarded (reason : Nat) : Prop :=
    u.head = st.head ∧ u.gaps = st.gaps ++ [⟨port, reason, 0xFFFF, 1, e, 32 * s.ss.ord⟩] ∧ t.store = s.store ∧ t.storeBad = s.storeBad
  (∀ m, m ≠ n.val → t.strm m = s.strm m) ∧ u.armed = st.armed ∧ u.kind = st.kind ∧ u.rbase = st.rbase ∧ u.rlen = st.rlen ∧
  (fits → u.tail = st.tail % strmWrap st ∧ u.drop = st.drop ∧ (blocked = false → stored) ∧ (blocked = true → discarded 3)) ∧
  (¬ fits → st.overwrite = false → discarded 2 ∧ u.tail = st.tail ∧ u.dropped = true ∧ u.drop = bump s 8 0x01A st.drop 1 n.val) ∧
  (¬ fits → st.overwrite = true → total ≤ cap → blocked = false → stored ∧ u.overwritten = true ∧ u.drop = st.drop ∧
    ∃ adv, 0 < adv ∧ u.tail = (st.tail + adv) % strmWrap st ∧ (st.tail + adv) % 2048 = 0 ∧ level + total ≤ cap + adv ∧
      ∀ x, x < adv → (st.tail + x) % 2048 = 0 → cap + x < level + total)

/-- Lane `l` runs the activation `r` and its next step executes the clean charm word `w` (07 R298, R309): fewer than MAXSTEPS
steps have been executed and the pc is in the program area. -/
def charmAt (s : State) (l : Nat) (r : Run) (w : Nat) : Prop :=
  busRuns s = true ∧ laneRun s l = some r ∧ r.steps < r.maxSteps ∧ 128 ≤ r.pc ∧ r.pc ≤ 16383 ∧ charmPois s r.pc = false ∧
  charmWord s r.pc = w

/-- A loop output when its eleventh consecutive short measurement is carried out (09 R413, R415). -/
def loopCarried (l : LoopOut) : LoopOut :=
  match l.due with
  | none => l
  | some low => { l with due := none, compliance := true, opn := l.opn || low, dropped := l.dropped || l.drop,
                         applied := if l.drop then 3500 else l.applied }

/-- A loop output that takes the command `v` (09 R411, R414, R415): under DROP it is only stored while COMPLIANCE is set; a command
that differs from the applied one restarts the count. -/
def loopTakes (l : LoopOut) (v : Word) : LoopOut :=
  let x := { loopCarried l with cmd := v }
  let ua := max 3500 (min v.toNat 22000)
  if x.compliance = true ∧ x.drop = true then x
  else if ua = x.applied then { x with dropped := false }
  else { x with dropped := false, applied := ua, shorts := 0, allLow := true, skip := 1 }

/-- CE_SLACK0 or CE_SLACK1, that of lane `x`, when the activation `a` ends on lane `l`: the margin of a periodic activation is the
BUS_CLK cycles that still run to its deadline, in units of 64 (07 R334), unless firmware has written the register in this cycle. -/
def slackAfter (s : State) (l x : Nat) (a : Act) : Word :=
  let old := if x = 0 then s.ce.slack0 else s.ce.slack1
  match a.deadline with
  | none => old
  | some d => if x = l ∧ s.fwWrote 11 (0x016 + 2 * x) = false then
      BitVec.ofNat 16 (min (busBetween s (s.now + (32 * d - s.now % 2 ^ 57)) / 64000) old.toNat) else old

/-- The coefficient of z^-k in (1 + z^-1 + ... + z^-63)^4: the inclusion-exclusion count of four numbers below 64 with sum k. -/
def cicTap (k : Nat) : Int :=
  ((List.range 5).map (fun j => if 64 * j ≤ k then (-1 : Int) ^ j * (Nat.choose 4 j : Int) * (Nat.choose (k - 64 * j + 3) 3 : Int) else 0)).sum

/-- The fetch at keeper `k`'s pc, or the instruction fetched, raises a synchronous exception of cause `c` with `v` for mtval,
leaving the state `u`. -/
def raises (s : State) (k c v : Nat) (u : State) : Prop :=
  fetchInstr s k = .fault c v u ∨ (c = 2 ∧ v = 0 ∧ ∃ n, fetchInstr s k = .word none n u) ∨
  ∃ w n x, fetchInstr s k = .word (some w) n x ∧ rvExec x k w n (s.keeper k).pc = .trap c v u

end Sys2Proof.Machine
end

