-- ==== Sys2Proof/Certificates/Slice0/Obligations.lean ====
section
/-! DEFINITION. The statements for the provers, each about every state unless it says otherwise. -/
open Sys2Proof Sys2Proof.Machine

/-- A step takes the command at the front of the queue and runs it with the queue's rest. -/
def Obligations.StepRunsFrontCommand : Prop :=
  ∀ (c : Instr) (rest : List Instr) (s : State),
    step { s with pending := c :: rest } = exec c { s with pending := rest }

/-- With no command waiting one BUS_CLK cycle passes, and none while a POR holds the hub (model's choice, log 1). -/
def Obligations.EmptyQueuePassesOneCycle : Prop :=
  ∀ s : State, s.pending = [] →
    (s.rst.porHeld = true → step s = .next s) ∧
    (s.rst.porHeld = false → ∃ t, step s = .next t ∧ t.now = s.now + 1 ∧ t.pending = [] ∧
      t.iram = s.iram ∧ t.wram = s.wram ∧ t.store = s.store ∧ t.img = s.img)

/-- Every well-formed command answers a next state, every other is refused as ill-formed, and nothing faults. -/
def Obligations.WellFormedCommandsComplete : Prop :=
  ∀ (c : Instr) (s : State),
    (wellFormed c = true → ∃ t, exec c s = .next t) ∧
    (wellFormed c = false → ∃ name, exec c s = .refused (.illFormed name))

/-- No command adds to or takes from the queue of waiting commands, and none changes the part's variant. -/
def Obligations.CommandsLeaveTheQueue : Prop :=
  ∀ (c : Instr) (s t : State), exec c s = .next t →
    t.pending = s.pending ∧ t.variant = s.variant ∧
    ∀ r off, off < 8 → unitRead t r 0 off = unitRead s r 0 off

/-- Every step keeps every memory in its canonical form. -/
def Obligations.StepsKeepMemoriesCanonical : Prop :=
  ∀ s t : State, Memory.wf s = true → step s = .next t → Memory.wf t = true

/-- Every step keeps every present keeper's pc, saved pc and entry address even. -/
def Obligations.StepsKeepPcsEven : Prop :=
  ∀ s t : State, pcsEven s → step s = .next t → pcsEven t

/-- Every step keeps the hub's queues within their capacities. -/
def Obligations.StepsKeepQueuesWithinCapacity : Prop :=
  ∀ s t : State, queuesFit s → step s = .next t → queuesFit t

/-- The state after reset meets the invariants that every step keeps. -/
def Obligations.ResetMeetsTheInvariants : Prop :=
  Memory.wf State.reset = true ∧ pcsEven State.reset ∧ queuesFit State.reset ∧ State.reset.pending = []

/-- A keeper fetches the word at its pc or faults, a compressed parcel as the instruction that it stands for; x0 reads 0 and discards
writes; other registers hold what was last written. -/
def Obligations.KeeperFetchAndRegisterFile : Prop :=
  (∀ (s : State) (k i : Nat) (v : W32),
    xr s k 0 = 0 ∧ setX s k 0 v = s ∧
    (i ≠ 0 → xr (setX s k i v) k i = v ∧ (∀ l, l ≠ i → xr (setX s k i v) k l = xr s k l) ∧
      (∀ l, l ≠ k → (setX s k i v).keeper l = s.keeper l) ∧
      (setX s k i v).keeper k = { s.keeper k with regs := ((setX s k i v).keeper k).regs } ∧
      setX s k i v = { s with keepers := (setX s k i v).keepers })) ∧
  (∀ (s : State) (k w : Nat),
    let pc := (s.keeper k).pc.toNat
    let o := pc - wramBase
    (codeAt s k w = true → fetchInstr s k = .word (some w) 4 s) ∧
    (pc % 2 = 0 → pc + 2 ≤ iramSize → badLE .iram s pc 2 = true → ∃ t, fetchInstr s k = .fault 1 pc t) ∧
    (wramBase ≤ pc → pc + 4 ≤ wramBase + wramSize → pc % 2 = 0 → badLE .wram s o 4 = false → o / 2 ∉ (s.keeper k).stale →
      o / 2 + 1 ∉ (s.keeper k).stale → getLE .wram s o 4 = w → w % 4 = 3 → fetchInstr s k = .word (some w) 4 s) ∧
    (iramSize ≤ pc ∧ pc < wramBase ∨ wramBase + wramSize ≤ pc → fetchInstr s k = .fault 1 pc s)) ∧
  (∀ (s : State) (k : Nat), (s.keeper k).pc.toNat % 2 = 0 → (s.keeper k).pc.toNat + 2 ≤ iramSize →
    badLE .iram s (s.keeper k).pc.toNat 2 = false →
    let parcel := getLE .iram s (s.keeper k).pc.toNat 2
    let I (imm rs1 f3 rd op : Nat) : Nat := imm * 2 ^ 20 + rs1 * 2 ^ 15 + f3 * 2 ^ 12 + rd * 2 ^ 7 + op
    let R (f7 rs2 rs1 f3 rd op : Nat) : Nat := f7 * 2 ^ 25 + rs2 * 2 ^ 20 + rs1 * 2 ^ 15 + f3 * 2 ^ 12 + rd * 2 ^ 7 + op
    let S (imm rs2 rs1 : Nat) : Nat := imm / 32 * 2 ^ 25 + rs2 * 2 ^ 20 + rs1 * 2 ^ 15 + 2 * 2 ^ 12 + imm % 32 * 2 ^ 7 + 0x23
    let B (imm rs1 f3 : Nat) : Nat := imm / 4096 % 2 * 2 ^ 31 + imm / 32 % 64 * 2 ^ 25 + rs1 * 2 ^ 15 + f3 * 2 ^ 12 +
      imm / 2 % 16 * 2 ^ 8 + imm / 2048 % 2 * 2 ^ 7 + 0x63
    let J (imm rd : Nat) : Nat := imm / 2 ^ 20 % 2 * 2 ^ 31 + imm / 2 % 1024 * 2 ^ 21 + imm / 2048 % 2 * 2 ^ 20 +
      imm / 4096 % 256 * 2 ^ 12 + rd * 2 ^ 7 + 0x6F
    let sx (v n m : Nat) : Nat := if v / 2 ^ (n - 1) % 2 = 1 then v + (2 ^ m - 2 ^ n) else v
    (parcel = 0 → fetchInstr s k = .word none 2 s) ∧
    (∀ (d t : Fin 8) (rd rs : Fin 32) (n : Fin 256) (j : Fin 2048),
      let u := 4 * n.val
      let i := n.val % 64
      let c := i / 32 * 4096 + rd.val * 128 + i % 32 * 4
      let m := u / 8 % 8 * 1024 + t.val * 128 + u / 4 % 2 * 64 + u / 64 % 2 * 32 + d.val * 4
      let x := 2 * j.val
      let y := x / 2048 % 2 * 4096 + x / 16 % 2 * 2048 + x / 256 % 4 * 512 + x / 1024 % 2 * 256 + x / 64 % 2 * 128 + x / 128 % 2 * 64 +
        x / 2 % 8 * 8 + x / 32 % 2 * 4
      let b := 2 * n.val
      let z := b / 256 % 2 * 4096 + b / 8 % 4 * 1024 + d.val * 128 + b / 64 % 4 * 32 + b / 2 % 4 * 8 + b / 32 % 2 * 4
      let a := 16 * i
      let q := a / 512 % 2 * 4096 + 2 * 128 + a / 16 % 2 * 64 + a / 64 % 2 * 32 + a / 128 % 4 * 8 + a / 32 % 2 * 4
      let table : List (Bool × Nat × Nat) :=
        [(n ≠ 0, u / 16 % 4 * 2048 + u / 64 % 16 * 128 + u / 4 % 2 * 64 + u / 8 % 2 * 32 + d.val * 4, I u 2 0 (8 + d) 0x13),
         (n.val < 32, 0x4000 + m, I u (8 + t) 2 (8 + d) 0x03), (n.val < 32, 0xC000 + m, S u (8 + d) (8 + t)),
         (true, c + 1, I (sx i 6 12) rd 0 rd 0x13), (true, 0x2001 + y, J (sx x 12 21) 1), (true, 0x4001 + c, I (sx i 6 12) 0 0 rd 0x13),
         (i ≠ 0, 0x6001 + q, I (sx a 10 12) 2 0 2 0x13), (rd ≠ 2 && i ≠ 0, 0x6001 + c, sx i 6 20 * 2 ^ 12 + rd.val * 2 ^ 7 + 0x37),
         (i < 32, 0x8001 + d.val * 128 + i * 4, R 0 i (8 + d) 5 (8 + d) 0x13),
         (i < 32, 0x8401 + d.val * 128 + i * 4, R 0x20 i (8 + d) 5 (8 + d) 0x13),
         (true, 0x8801 + i / 32 * 4096 + d.val * 128 + i % 32 * 4, I (sx i 6 12) (8 + d) 7 (8 + d) 0x13),
         (true, 0x8C01 + d.val * 128 + t.val * 4, R 0x20 (8 + t) (8 + d) 0 (8 + d) 0x33),
         (true, 0x8C21 + d.val * 128 + t.val * 4, R 0 (8 + t) (8 + d) 4 (8 + d) 0x33),
         (true, 0x8C41 + d.val * 128 + t.val * 4, R 0 (8 + t) (8 + d) 6 (8 + d) 0x33),
         (true, 0x8C61 + d.val * 128 + t.val * 4, R 0 (8 + t) (8 + d) 7 (8 + d) 0x33),
         (true, 0xA001 + y, J (sx x 12 21) 0), (true, 0xC001 + z, B (sx b 9 13) (8 + d) 0), (true, 0xE001 + z, B (sx b 9 13) (8 + d) 1),
         (i < 32, rd.val * 128 + i * 4 + 2, R 0 i rd 1 rd 0x13),
         (rd ≠ 0 && n.val < 64, 0x4002 + u / 32 % 2 * 4096 + rd.val * 128 + u / 4 % 8 * 16 + u / 64 % 4 * 4, I u 2 2 rd 0x03),
         (rd ≠ 0, 0x8002 + rd.val * 128, I 0 rd 0 0 0x67), (rs ≠ 0, 0x8002 + rd.val * 128 + rs.val * 4, R 0 rs 0 0 rd 0x33),
         (true, 0x9002, 0x00100073), (rd ≠ 0, 0x9002 + rd.val * 128, I 0 rd 0 1 0x67),
         (rs ≠ 0, 0x9002 + rd.val * 128 + rs.val * 4, R 0 rs rd 0 rd 0x33),
         (n.val < 64, 0xC002 + u / 4 % 16 * 512 + u / 64 % 4 * 128 + rs.val * 4, S u rs 2)]
      ∀ e ∈ table, e.1 = true → parcel = e.2.1 → fetchInstr s k = .word (some e.2.2) 2 s))

/-- What the register, immediate, jump, branch and CSR instructions of a keeper compute, and that nothing else changes. -/
def Obligations.KeeperRegisterJumpAndBranchInstructions : Prop :=
  (∀ (k : Fin 4) (s u : State) (w n : Nat), keeperActs s k = true → fetchInstr s k = .word (some w) n u → fld w 0 7 = 0x33 →
    let a := xr u k (fld w 15 5)
    let b := xr u k (fld w 20 5)
    let sh := b.toNat % 32
    let table : List (Nat × Nat × W32) :=
      [(0x00, 0, a + b), (0x20, 0, a - b), (0x00, 1, a <<< sh), (0x00, 2, if a.toInt < b.toInt then 1 else 0),
       (0x00, 3, if a.toNat < b.toNat then 1 else 0), (0x00, 4, a ^^^ b), (0x00, 5, a >>> sh), (0x20, 5, a.sshiftRight sh),
       (0x00, 6, a ||| b), (0x00, 7, a &&& b), (0x01, 0, a * b),
       (0x01, 1, BitVec.ofInt 32 (a.toInt * b.toInt / 2 ^ 32)), (0x01, 2, BitVec.ofInt 32 (a.toInt * b.toNat / 2 ^ 32)),
       (0x01, 3, BitVec.ofNat 32 (a.toNat * b.toNat / 2 ^ 32)),
       (0x01, 4, if b = 0 then 0xFFFFFFFF else if a = 0x80000000 ∧ b = 0xFFFFFFFF then a else BitVec.ofInt 32 (a.toInt.tdiv b.toInt)),
       (0x01, 5, if b = 0 then 0xFFFFFFFF else BitVec.ofNat 32 (a.toNat / b.toNat)),
       (0x01, 6, if b = 0 then a else if a = 0x80000000 ∧ b = 0xFFFFFFFF then 0 else BitVec.ofInt 32 (a.toInt.tmod b.toInt)),
       (0x01, 7, if b = 0 then a else BitVec.ofNat 32 (a.toNat % b.toNat))]
    ∀ e ∈ table, fld w 25 7 = e.1 → fld w 12 3 = e.2.1 →
      let v := setX u k (fld w 7 5) e.2.2
      exec (.keeperInstruction k) s = .next (v.setKeeper k
        { v.keeper k with pc := (s.keeper k).pc + BitVec.ofNat 32 n,
                          minstret := if (s.keeper k).inhibitIr then (s.keeper k).minstret else (s.keeper k).minstret + 1 })) ∧
  (∀ (k : Fin 4) (s u : State) (w n : Nat), keeperActs s k = true → fetchInstr s k = .word (some w) n u →
    let pc := (s.keeper k).pc
    let a := xr u k (fld w 15 5)
    let b := xr u k (fld w 20 5)
    let rd := fld w 7 5
    let go (v : State) (to_ : W32) : State := v.setKeeper k
      { v.keeper k with pc := to_, minstret := if (s.keeper k).inhibitIr then (s.keeper k).minstret else (s.keeper k).minstret + 1 }
    let table : List (Nat × Bool) :=
      [(0, decide (a = b)), (1, decide (a ≠ b)), (4, decide (a.toInt < b.toInt)), (5, decide (b.toInt ≤ a.toInt)),
       (6, decide (a.toNat < b.toNat)), (7, decide (b.toNat ≤ a.toNat))]
    (fld w 0 7 = 0x6F →
      exec (.keeperInstruction k) s = .next (go (setX u k rd (pc + BitVec.ofNat 32 n)) (pc + immJ w))) ∧
    (fld w 0 7 = 0x67 → fld w 12 3 = 0 →
      exec (.keeperInstruction k) s = .next (go (setX u k rd (pc + BitVec.ofNat 32 n)) ((a + immI w) &&& 0xFFFFFFFE#32))) ∧
    (fld w 0 7 = 0x63 → ∀ e ∈ table, fld w 12 3 = e.1 →
      exec (.keeperInstruction k) s = .next (go u (if e.2 then pc + immB w else pc + BitVec.ofNat 32 n))) ∧
    (let nx := pc + BitVec.ofNat 32 n
     let i := immI w
     let sh := fld w 20 5
     let upper : W32 := BitVec.ofNat 32 (w / 4096 % 2 ^ 20 * 4096)
     let imms : List (Nat × Option Nat × W32) :=
       [(0, none, a + i), (2, none, if a.toInt < i.toInt then 1 else 0), (3, none, if a.toNat < i.toNat then 1 else 0), (4, none, a ^^^ i),
        (6, none, a ||| i), (7, none, a &&& i), (1, some 0, a <<< sh), (5, some 0, a >>> sh), (5, some 0x20, a.sshiftRight sh)]
     (fld w 0 7 = 0x37 → exec (.keeperInstruction k) s = .next (go (setX u k rd upper) nx)) ∧
     (fld w 0 7 = 0x17 → exec (.keeperInstruction k) s = .next (go (setX u k rd (pc + upper)) nx)) ∧
     (fld w 0 7 = 0x13 → ∀ e ∈ imms, fld w 12 3 = e.1 → (∀ f, e.2.1 = some f → fld w 25 7 = f) →
       exec (.keeperInstruction k) s = .next (go (setX u k rd e.2.2) nx)))) ∧
  (∀ (k : Fin 4) (s u : State) (w n : Nat), keeperActs s k = true → fetchInstr s k = .word (some w) n u → fld w 0 7 = 0x73 →
    fld w 12 3 % 4 ≠ 0 →
    let kp := u.keeper k
    let f := fld w 12 3
    let z := fld w 15 5
    let csr := fld w 20 12
    let src : W32 := if f < 4 then xr u k z else BitVec.ofNat 32 z
    let writes : Prop := f % 4 = 1 ∨ z ≠ 0
    let flags (b i : Bool) (x y : Nat) : W32 := BitVec.ofNat 32 ((if b then 2 ^ x else 0) + (if i then 2 ^ y else 0))
    let low (c : BitVec 64) : W32 := c.extractLsb' 0 32
    let high (c : BitVec 64) : W32 := c.extractLsb' 32 32
    let kept : List (Nat × W32 × (W32 → Keeper)) :=
      [(0x300, flags kp.mstatusMie kp.mstatusMpie 3 7 ||| 0x1800, fun v => { kp with mstatusMie := bitAt v 3, mstatusMpie := bitAt v 7 }),
       (0x304, flags kp.meie kp.mtie 11 7, fun v => { kp with meie := bitAt v 11, mtie := bitAt v 7 }),
       (0x305, kp.mtvec, fun v => { kp with mtvec := v }), (0x340, kp.mscratch, fun v => { kp with mscratch := v }),
       (0x320, flags kp.inhibitCy kp.inhibitIr 0 2, fun v => { kp with inhibitCy := bitAt v 0, inhibitIr := bitAt v 2 }),
       (0x341, kp.mepc, fun v => { kp with mepc := v &&& 0xFFFFFFFE#32 }), (0x342, kp.mcause, fun v => { kp with mcause := v }),
       (0x343, kp.mtval, fun v => { kp with mtval := v }), (0x344, flags (meip u k) (mtip u k) 11 7, fun _ => kp),
       (0xB00, low kp.mcycle, fun v => { kp with mcycle := high kp.mcycle ++ v }),
       (0xB80, high kp.mcycle, fun v => { kp with mcycle := v ++ low kp.mcycle }),
       (0xB02, low kp.minstret, fun v => { kp with minstret := high kp.minstret ++ v }),
       (0xB82, high kp.minstret, fun v => { kp with minstret := v ++ low kp.minstret })]
    let fixed : List (Nat × W32) :=
      [(0x301, 0x40001104), (0xF11, 0), (0xF12, 0), (0xF13, 0xA1), (0xF14, BitVec.ofNat 32 k), (0xC00, low kp.mcycle),
       (0xC80, high kp.mcycle), (0xC02, low kp.minstret), (0xC82, high kp.minstret), (0xC01, BitVec.ofNat 32 (mtime u)),
       (0xC81, BitVec.ofNat 32 (mtime u / 2 ^ 32))]
    let after (x : State) (old : W32) (counts : Prop) [Decidable counts] : State :=
      let y := setX x k (fld w 7 5) old
      y.setKeeper k { y.keeper k with
        pc := kp.pc + BitVec.ofNat 32 n,
        minstret := if counts ∧ (y.keeper k).inhibitIr = false then (y.keeper k).minstret + 1 else (y.keeper k).minstret }
    (∀ e ∈ kept, csr = e.1 →
      (¬ writes → exec (.keeperInstruction k) s = .next (after u e.2.1 True)) ∧
      (writes → exec (.keeperInstruction k) s = .next (after
        (u.setKeeper k (e.2.2 (if f % 4 = 1 then src else if f % 4 = 2 then e.2.1 ||| src else e.2.1 &&& ~~~src))) e.2.1
        (csr ≠ 0xB02 ∧ csr ≠ 0xB82)))) ∧
    (∀ e ∈ fixed, csr = e.1 →
      (¬ writes → exec (.keeperInstruction k) s = .next (after u e.2 True)) ∧ (writes → raises s k 2 0 u)) ∧
    ((∀ e ∈ kept, csr ≠ e.1) → (∀ e ∈ fixed, csr ≠ e.1) → raises s k 2 0 u))

/-- Loads take the newest buffered data, and entries drain to working RAM in order with fresh parity, touching no other byte. -/
def Obligations.StoreBufferLoadsAndDrains : Prop :=
  (∀ (s : State) (k o v n : Nat), n ∈ [1, 2, 4] → v < 256 ^ n → o % n = 0 → o + n ≤ wramSize →
    kStore s k (wramBase + o) v n = .ok 0 (bufStore s k o v n) ∧
    kLoad (bufStore s k o v n) k (wramBase + o) n = .ok v (bufStore s k o v n) ∧
    getLE .wram (drainAll (bufStore s k o v n) k) o n = v ∧ badLE .wram (drainAll (bufStore s k o v n) k) o n = false) ∧
  (∀ (k : Fin 4) (s : State),
    ((busRuns s = false ∨ (s.keeper k).sbuf = []) → exec (.storeBufferDrain k) s = .next s) ∧
    (∀ (x : StoreEntry) (rest : List StoreEntry), busRuns s = true → (s.keeper k).sbuf = x :: rest →
      ∃ t, exec (.storeBufferDrain k) s = .next t ∧ t.keeper k = { s.keeper k with sbuf := rest } ∧
        (∀ i, i < x.bytes.length → getByte .wram t (x.addr + i) = nth 0 x.bytes i ∧ badByte .wram t (x.addr + i) = false) ∧
        (∀ a, a < x.addr ∨ x.addr + x.bytes.length ≤ a →
          getByte .wram t a = getByte .wram s a ∧ badByte .wram t a = badByte .wram s a) ∧
        (∀ j, j ≠ k.val → t.keeper j = s.keeper j) ∧
        t = { s with wram := t.wram, wramBad := t.wramBad, keepers := t.keepers }))

/-- Loads and stores of a keeper by the place of their address: image RAM, working RAM, the window, register space or none; a
misaligned access traps before any access check. -/
def Obligations.KeeperMemoryInstructions : Prop :=
  ∀ (k : Fin 4) (s u : State) (w n : Nat), keeperActs s k = true → fetchInstr s k = .word (some w) n u →
    let pc := (s.keeper k).pc
    let st := (xr u k (fld w 15 5) + immS w).toNat
    let ld := (xr u k (fld w 15 5) + immI w).toNat
    let d := drainAll u k
    let retired (v : State) : State := v.setKeeper k { v.keeper k with
      pc := pc + BitVec.ofNat 32 n, minstret := if (v.keeper k).inhibitIr then (v.keeper k).minstret else (v.keeper k).minstret + 1 }
    let trap (cause tval : Nat) : State := u.setKeeper k
      { u.keeper k with mepc := pc, mcause := BitVec.ofNat 32 cause, mtval := BitVec.ofNat 32 tval,
                        mstatusMpie := (s.keeper k).mstatusMie, mstatusMie := false,
                        pc := (s.keeper k).mtvec &&& 0xFFFFFFFC#32, inTrap := true, wfi := false }
    let inWram (a : Nat) : Prop := wramBase ≤ a ∧ a < wramBase + wramSize
    let inWindow (a : Nat) : Prop := winBase ≤ a ∧ a < winBase + winSize
    let present (a : Nat) : Prop := winBase ≤ a ∧ a < winBase + 4096 * nPages s
    let hit : State := d.setKeeper k { d.keeper k with absentHit := true }
    let burst (x : State) : Prop := x = { d with arb := { d.arb with groups := x.arb.groups } }
    let loads : List (Nat × Nat × Bool) := [(0, 1, true), (1, 2, true), (2, 4, false), (4, 1, false), (5, 2, false)]
    (fld w 0 7 = 0x03 → ∀ e ∈ loads, fld w 12 3 = e.1 →
      let b := e.2.1
      let gives (x : State) (v : Nat) : Prop := exec (.keeperInstruction k) s = .next (retired (setX x k (fld w 7 5)
        (BitVec.ofNat 32 (if e.2.2 = true ∧ 2 ^ (8 * b - 1) ≤ v then v + (2 ^ 32 - 2 ^ (8 * b)) else v))))
      (ld % b ≠ 0 → (s.keeper k).inTrap = false → exec (.keeperInstruction k) s = .next (trap 4 ld)) ∧
      (ld % b = 0 →
        (ld < iramSize → badLE .iram u (ld / 2 * 2) (if b = 4 then 4 else 2) = false → gives u (getLE .iram u ld b)) ∧
        (inWram ld →
          let o := ld - wramBase
          let fresh (i : Nat) : Option Byte := buffered (u.keeper k).sbuf (o + i)
          (∀ i, i < b → fresh i = none → badByte .wram u (o + i) = false) →
          gives u ((List.range b).map (fun i => ((fresh i).getD (getByte .wram u (o + i))).toNat * 256 ^ i)).sum) ∧
        (present ld → bitAt s.arb.block (2 + k) = false →
          (∀ i, i < (b + 1) / 2 → storePois u ((ld - winBase) / 2 + i) = false) →
          ∃ x, burst x ∧ gives x (getLE .store u (ld - winBase) b)) ∧
        (inWindow ld → ¬ present ld → gives hit 0) ∧
        (regValid ld = true → b = 2 → loadStalls u ld = false →
          gives (regRead d (.keeper k) ld).2 (regRead d (.keeper k) ld).1) ∧
        (¬ ld < iramSize → ¬ inWram ld → ¬ inWindow ld → (regValid ld = false ∨ b ≠ 2) → raises s k 5 ld u))) ∧
    (fld w 0 7 = 0x23 → ∀ e ∈ [(0, 1), (1, 2), (2, 4)], fld w 12 3 = e.1 →
      let b := e.2
      let v := (xr u k (fld w 20 5)).toNat
      (st % b ≠ 0 → (s.keeper k).inTrap = false → exec (.keeperInstruction k) s = .next (trap 6 st)) ∧
      (st % b = 0 →
        (inWram st →
          let o := st - wramBase
          let v' := if 8 ≤ (u.keeper k).sbuf.length then drainOne u k else u
          ∃ t, exec (.keeperInstruction k) s = .next t ∧
            t.keeper k = { (retired v').keeper k with
              sbuf := (v'.keeper k).sbuf ++ [⟨o, leBytes v b⟩], stale := (t.keeper k).stale } ∧
            (∀ j, j ≠ k.val → t.keeper j = { s.keeper j with stale := (t.keeper j).stale }) ∧
            (∀ j h, j < nKeepers s → (h ∈ (t.keeper j).stale ↔
              h ∈ (s.keeper j).stale ∨ o / 2 ≤ h ∧ h < o / 2 + (b + 1) / 2)) ∧
            (∀ j, nKeepers s ≤ j → t.keeper j = s.keeper j) ∧ t = { v' with keepers := t.keepers }) ∧
        (present st → b ≠ 1 → bitAt s.arb.block (2 + k) = false → ∃ x y, burst x ∧ exec (.keeperInstruction k) s = .next (retired y) ∧
          (∀ i, i < b → getByte .store y (st - winBase + i) = BitVec.ofNat 8 (v / 256 ^ i) ∧
            badByte .store y (st - winBase + i) = false) ∧
          (∀ a, a < st - winBase ∨ st - winBase + b ≤ a → getByte .store y a = getByte .store u a ∧ badByte .store y a = badByte .store u a) ∧
          y = { x with store := y.store, storeBad := y.storeBad }) ∧
        (present st → b ≠ 1 → bitAt s.arb.block (2 + k) = true → raises s k 7 st d) ∧
        (inWindow st → ¬ present st → b ≠ 1 → exec (.keeperInstruction k) s = .next (retired hit)) ∧
        (regValid st = true → b = 2 → exec (.keeperInstruction k) s = .next (retired (regWrite d (.keeper k) st v))) ∧
        (¬ inWram st → (¬ inWindow st ∨ b = 1) → (regValid st = false ∨ b ≠ 2) → raises s k 7 st u)))

/-- A synchronous exception enters the trap handler and sets IN_TRAP; one raised in IN_TRAP resets the keeper alone; mret and TRAP_DONE clear it. -/
def Obligations.KeeperTrapEntryAndDoubleFault : Prop :=
  ∀ (k : Fin 4) (s : State), keeperActs s k = true →
    (∀ (u : State) (c v : Nat), raises s k c v u →
      ((u.keeper k).inTrap = false → exec (.keeperInstruction k) s = .next (u.setKeeper k
        { u.keeper k with mepc := (s.keeper k).pc, mcause := BitVec.ofNat 32 c, mtval := BitVec.ofNat 32 v,
                          mstatusMpie := (u.keeper k).mstatusMie, mstatusMie := false,
                          pc := (u.keeper k).mtvec &&& 0xFFFFFFFC#32, inTrap := true, wfi := false })) ∧
      ((u.keeper k).inTrap = true → exec (.keeperInstruction k) s = .next (
        if k = 0 then { u.setKeeper k { u.keeper k with rstDbl := true } with integ := { u.integ with seqDue := true } }
        else u.setKeeper k { u.keeper k with rstDbl := true, resetDue := true }))) ∧
    (∀ (u : State) (w n c : Nat), fetchInstr s k = .word (some w) n u →
      (w = 0x00000073 ∧ c = 11 ∨ w = 0x00100073 ∧ c = 3 ∨ (fld w 0 7 = 0x2F ∨ fld w 0 7 = 0x53) ∧ c = 2) → raises s k c 0 u) ∧
    (∀ (u : State) (n : Nat), fetchInstr s k = .word (some 0x30200073) n u →
      exec (.keeperMret k) s = .next (u.setKeeper k
        { u.keeper k with pc := (s.keeper k).mepc, mstatusMie := (s.keeper k).mstatusMpie, mstatusMpie := true, inTrap := false,
                          minstret := if (s.keeper k).inhibitIr then (s.keeper k).minstret else (s.keeper k).minstret + 1 })) ∧
    exec (.trapDone k) s = .next ((drainAll s k).setKeeper k { (drainAll s k).keeper k with inTrap := false })

/-- A keeper takes its interrupts with the saved registers, FENCE and FENCE.I drain the store buffer, and WFI stalls until one is pending. -/
def Obligations.KeeperInterruptsFencesAndWfi : Prop :=
  (∀ (k : Fin 4) (s : State), keeperActs (s.setKeeper k { s.keeper k with wfi := false }) k = true →
    (s.keeper k).mstatusMie = true →
    (meip s k && (s.keeper k).meie || mtip s k && (s.keeper k).mtie) = true →
    let kp := s.keeper k
    let num : W32 := if meip s k && kp.meie then 11 else 7
    exec (.keeperInterruptTaken k) s = .next (s.setKeeper k
      { kp with mepc := kp.pc, mcause := 0x80000000#32 + num, mtval := 0, mstatusMpie := true, mstatusMie := false, wfi := false,
                pc := (kp.mtvec &&& 0xFFFFFFFC#32) + (if kp.mtvec &&& 3 = 1 then 4 * num else 0) })) ∧
  (∀ (k : Fin 4) (s u : State) (w n : Nat), keeperActs s k = true → fetchInstr s k = .word (some w) n u →
    (fld w 0 7 = 0x0F → fld w 12 3 < 2 →
      ∃ t, exec (.keeperFence k) s = .next t ∧ (t.keeper k).sbuf = [] ∧ t.wram = (drainAll u k).wram ∧
        (t.keeper k).pc = (s.keeper k).pc + BitVec.ofNat 32 n ∧
        (t.keeper k).stale = (if fld w 12 3 = 1 then [] else (s.keeper k).stale) ∧
        (∀ j, j ≠ k.val → t.keeper j = s.keeper j) ∧ t = { drainAll u k with keepers := t.keepers }) ∧
    (w = 0x10500073 →
      let stalled := !(meip s k && (s.keeper k).meie || mtip s k && (s.keeper k).mtie)
      ∃ t, exec (.keeperWfi k) s = .next t ∧ (t.keeper k).wfi = stalled ∧
        (t.keeper k).pc = (s.keeper k).pc + BitVec.ofNat 32 n ∧ (∀ j, j ≠ k.val → t.keeper j = s.keeper j) ∧
        (t.pwr.entering = true ↔ s.pwr.req = 2 ∧ stalled = true ∧
          ∀ j, j < nKeepers s → j ≠ k.val → (s.keeper j).run = false ∨ (s.keeper j).wfi = true ∧ wakes s j = false) ∧
        (t.pwr.entering = false → t.kic = s.kic) ∧
        t = { u with keepers := t.keepers, kic := { u.kic with wsin := t.kic.wsin }, pwr := { u.pwr with entering := t.pwr.entering } }))

/-- A register command of a requester that cannot act changes nothing. -/
def Obligations.CommandsOfIdleRequestersWriteNothing : Prop :=
  ∀ (c : Instr) (s : State) (r : Req), wellFormed c = true →
    (registerCommand c = some r → reqActs s r = false → exec c s = .next s) ∧
    (registerCommand c = some r → r = .chain ∨ r = .twire → exec c s = .next s)

/-- Wide values are captured and held by their parts; a register write stores, clears or counts from the value written, or is
ignored where the unit is absent or SAFE forbids it; reads give what stands. -/
def Obligations.RegisterAccessesAndWideValues : Prop :=
  (∀ (k : Fin 4) (v : Word) (s : State), keeperActs s k = true →
    let u := drainAll s k
    let cmp := (u.keeper k).mtimecmp
    let base := 0x4000D010
    let held (i : Nat) : Word := (tget none u.wideHold (wideKey k (base + 2 * i))).getD (cmp.extractLsb' (16 * i) 16)
    (∃ t, exec (.wideValueLowRead (.keeper k) 0x4000D010) s = .next t ∧
      tget 0 t.rdata k = cmp.extractLsb' 0 16 ∧
      (∀ i, 1 ≤ i → i ≤ 3 → tget 0 t.wideCap (wideKey k (base + 2 * i)) = cmp.extractLsb' (16 * i) 16) ∧
      (∀ key, (∀ i, 1 ≤ i → i ≤ 3 → key ≠ wideKey k (base + 2 * i)) → tget 0 t.wideCap key = tget 0 u.wideCap key) ∧
      (∀ j, j ≠ k.val → tget 0 t.rdata j = tget 0 u.rdata j) ∧
      t = { u with rdata := t.rdata, wideCap := t.wideCap }) ∧
    (∀ i : Nat, 1 ≤ i → i ≤ 3 → regRead u (.keeper k) (base + 2 * i) = ((tget 0 u.wideCap (wideKey k (base + 2 * i))).toNat, u)) ∧
    (∀ i : Nat, i ≤ 2 → ∃ t, exec (.registerWrite (.keeper k) (0x4000D010 + 2 * BitVec.ofNat 32 i) v) s = .next t ∧
      tget none t.wideHold (wideKey k (base + 2 * i)) = some v ∧
      (∀ key, key ≠ wideKey k (base + 2 * i) → tget none t.wideHold key = tget none u.wideHold key) ∧
      t = { u with wideHold := t.wideHold }) ∧
    (∃ t, exec (.wideValueHighWrite (.keeper k) 0x4000D016 v) s = .next t ∧
      t.keeper k = { u.keeper k with mtimecmp := v ++ held 2 ++ held 1 ++ held 0 } ∧
      (∀ i, i ≤ 2 → tget none t.wideHold (wideKey k (base + 2 * i)) = none) ∧
      (∀ key, (∀ i, i ≤ 2 → key ≠ wideKey k (base + 2 * i)) → tget none t.wideHold key = tget none u.wideHold key) ∧
      (∀ j, j ≠ k.val → t.keeper j = u.keeper j) ∧
      t = { u with keepers := t.keepers, wideHold := t.wideHold })) ∧
  (∀ (r : Req) (v : Word) (s : State), mayWrite s r = true →
    let u := reqWaits s r
    let w := s.was
    (∀ (a : W32), regValid a.toNat = true → unitAbsent u (regBlock a.toNat) (regOff a.toNat) = true →
      exec (.registerWrite r a v) s = .next (match r with
        | .keeper k => u.setKeeper k { u.keeper k with absentHit := true }
        | _ => u) ∧
      (regRead u r a.toNat).1 = 0) ∧
    (s.variant ≠ .thr6420 → unitAbsent u (regBlock 0x40011100) (regOff 0x40011100) = true) ∧
    (s.variant = .thr6404 → unitAbsent u (regBlock 0x4000D180) (regOff 0x4000D180) = true) ∧
    (s.integ.safe = true → ∀ a : W32, 0x4000E000 ≤ a.toNat → a.toNat < 0x40012000 → a.toNat % 2 = 0 →
      unitAbsent u (regBlock a.toNat) (regOff a.toNat) = false → exec (.registerWrite r a v) s = .next u) ∧
    (regValid 0x4000C304 = true ∧ exec (.registerWrite r 0x4000C304 v) s = .next u) ∧
    (∀ n : Fin 256, exec (.registerWrite r (BitVec.ofNat 32 (0x4000C000 + 2 * n.val)) v) s =
      .next { u with kic := { u.kic with scfg := tput 0 u.kic.scfg n (v &&& 0x033F) } }) ∧
    (∀ n : Fin 16, storesTo r v s
      [(BitVec.ofNat 32 (0x4000C220 + 2 * n.val), { u with kic := { u.kic with smask := setMapWord u.kic.smask n v.toNat } }),
       (BitVec.ofNat 32 (0x4000C800 + 2 * n.val), { u with kic := { u.kic with watch := tput 0 u.kic.watch n (v &&& 0x80FF) } })]) ∧
    (∀ b : Fin 4, b.val < nKeepers s →
      let a (o : Nat) : W32 := BitVec.ofNat 32 (0x4000C400 + 0x100 * b.val + o)
      let x := u.bank b
      (∀ p : Fin 32, storesTo r v s [(a (2 * p), u.setBank b { x with pcfg := tput 0 x.pcfg p (v &&& 0x3F) })]) ∧
      storesTo r v s
        [(a 0x44, u.setBank b { x with pmask := setMapWord x.pmask 0 v.toNat }), (a 0x46, u.setBank b { x with pmask := setMapWord x.pmask 1 v.toNat }),
         (a 0x50, u.setBank b { x with split := v.extractLsb' 4 3, group := bitAt v 0 }), (a 0x52, u.setBank b { x with thresh := v.setWidth 4 }),
         (a 0x5E, u.setBank b { x with complErr := x.complErr && !(bitAt v 0 && (tget {} w.banks b.val).complErr),
                                       freezeTmo := x.freezeTmo && !(bitAt v 1 && (tget {} w.banks b.val).freezeTmo) })]) ∧
    storesTo r v s
      [(0x40001000, { u with pwr := { u.pwr with ssc := v.setWidth 2 } }), (0x40001006, { u with pwr := { u.pwr with clkFltIe := v.setWidth 2 } }),
       (0x40002006, { u with pwr := { u.pwr with evtIe := v.setWidth 5 } }), (0x40002008, { u with pwr := { u.pwr with ret := v } }),
       (0x4000200A, { u with pwr := { u.pwr with entryTmo := v.setWidth 8 } }), (0x4000200C, { u with pwr := { u.pwr with pfwThr := v } }),
       (0x4000300A, { u with rst := { u.rst with ie := bitAt v 0 } }),
       (0x40001004, { u with pwr := { u.pwr with clkFlt := cleared u.pwr.clkFlt w.pwr.clkFlt v } }),
       (0x40002004, { u with pwr := { u.pwr with evt := cleared u.pwr.evt w.pwr.evt v } }),
       (0x40003002, { u with rst := { u.rst with hist := cleared u.rst.hist w.rst.hist v } }),
       (0x4000C820, { u with kic := { u.kic with watchHit := cleared u.kic.watchHit w.kic.watchHit v } }),
       (0x40001008, { u with pwr := { u.pwr with unlockCnt := v } }.fwMark 1 8)] ∧
    readsAs r u
      [(0x40000000, capWord s.variant 0), (0x40001000, u.pwr.ssc.toNat), (0x40001006, u.pwr.clkFltIe.toNat), (0x40002006, u.pwr.evtIe.toNat),
       (0x4000200A, u.pwr.entryTmo.toNat), (0x4000200C, u.pwr.pfwThr.toNat), (0x40002014, u.pwr.tj.toNat), (0x4000300A, if u.rst.ie then 1 else 0),
       (0x40001004, u.pwr.clkFlt.toNat), (0x40002004, u.pwr.evt.toNat), (0x40003002, u.rst.hist.toNat), (0x40003006, u.rst.count.toNat),
       (0x40001008, u.pwr.unlockCnt.toNat), (0x4000C820, u.kic.watchHit.toNat)]) ∧
  (∀ (s : State) (blk off inst n k : Nat) (c : BitVec n),
    bump (s.fwMark blk off inst) blk off c k inst = c ∧ (s.fwAt ≠ s.cyc → bump s blk off c k inst = satAdd c k) ∧
    (∀ b o i, fwKey b o i ≠ fwKey blk off inst → bump (s.fwMark blk off inst) b o c k i = bump s b o c k i))

/-- KP_RELEASE releases keepers and causes their resets; the debug module halts and resumes where it is open. -/
def Obligations.KeepersAreReleasedResetAndHalted : Prop :=
  (∀ (k n : Fin 4) (s : State),
    (n = 0 → exec (.keeperRelease k n) s = .refused (.illFormed "KEEPER_RELEASE") ∧
      exec (.keeperResetCmd k n) s = .refused (.illFormed "KEEPER_RESET_CMD")) ∧
    (keeperActs s k = true → n ≠ 0 → n.val < nKeepers s → s.integ.safe = true →
      exec (.keeperRelease k n) s = .next (drainAll s k) ∧ exec (.keeperResetCmd k n) s = .next (drainAll s k)) ∧
    (keeperActs s k = true → n ≠ 0 → n.val < nKeepers s → s.integ.safe = false →
      let u := drainAll s k
      let x := u.keeper n
      (bitAt s.release n = true → exec (.keeperRelease k n) s = .next u) ∧
      (bitAt s.release n = false → exec (.keeperResetCmd k n) s = .next u) ∧
      (bitAt s.release n = false → (s.keeper n).resetDue = false →
        ∃ t, exec (.keeperRelease k n) s = .next t ∧
          t.release = s.release ||| (1#4 <<< n.val) ∧
          t.keeper n = { x with run := true, pc := entryOf s n, wdtAcc := 0, wdtStage := false,
                                wdtFrom := if x.wdtEn && (!x.dbgHalt || x.wdtDbgRun) then some s.now else none } ∧
          (∀ j, j ≠ n.val → t.keeper j = u.keeper j) ∧ t = { u with release := t.release, keepers := t.keepers }) ∧
      (bitAt s.release n = false → (s.keeper n).resetDue = true →
        exec (.keeperRelease k n) s = .next { u with release := s.release ||| (1#4 <<< n.val) }) ∧
      (bitAt s.release n = true →
        ∃ t, exec (.keeperResetCmd k n) s = .next t ∧ t.release = s.release &&& ~~~(1#4 <<< n.val) ∧
          t.keeper n = { u.keeper n with rstCmd := true, resetDue := true } ∧
          (∀ j, j ≠ n.val → t.keeper j = u.keeper j) ∧ t = { u with release := t.release, keepers := t.keepers }))) ∧
  (∀ (k : Fin 4) (m : DebugIn) (s : State),
    (debugInOk m = false → exec (.debugResume k m) s = .refused (.illFormed "DEBUG_RESUME")) ∧
    (hallmark s = 2 → exec (.debugHalt k) s = .next s ∧ (debugInOk m = true → exec (.debugResume k m) s = .next s)) ∧
    (hallmark s ≠ 2 → k.val < nKeepers s → keepersClocked s = true → s.rst.pending = false → (s.keeper k).run = true →
      keeperDoomed s k = false → (s.keeper k).dbgHalt = false →
      ∃ t, exec (.debugHalt k) s = .next t ∧ keeperRuns t k = false ∧ wdtCount t k = wdtCount s k ∧
        t.keeper k = { s.keeper k with dbgHalt := true, wdtAcc := (t.keeper k).wdtAcc, wdtFrom := (t.keeper k).wdtFrom } ∧
        (∀ j, j ≠ k.val → t.keeper j = s.keeper j) ∧ t = { s with keepers := t.keepers }) ∧
    (debugInOk m = true →
      let u := if m.wram = [] then s else drainAll s k
      let pc := match m.pc with | none => (s.keeper k).pc | some a => a &&& 0xFFFFFFFE#32
      let written (t : State) : Prop :=
        (∀ x, getByte .wram t x = match m.wram.reverse.find? (fun y => y.1 == x) with | some y => y.2 | none => getByte .wram u x) ∧
        (∀ x, badByte .wram t x = (badByte .wram u x && !m.wram.any (fun y => y.1 == x))) ∧
        (∀ j, j ≠ k.val → t.keeper j = s.keeper j) ∧
        t = { s with keepers := t.keepers, wram := t.wram, wramBad := t.wramBad }
      (hallmark s ≠ 2 → k.val < nKeepers s → keepersClocked s = true → s.rst.pending = false → (s.keeper k).run = true →
        keeperDoomed s k = false → (s.keeper k).dbgHalt = true →
        ∃ t, exec (.debugResume k m) s = .next t ∧ written t ∧ wdtCount t k = wdtCount s k ∧
          t.keeper k = { u.keeper k with dbgHalt := false, pc := pc, wfi := m.pc = none && (s.keeper k).wfi,
                                         wdtAcc := (t.keeper k).wdtAcc, wdtFrom := (t.keeper k).wdtFrom }) ∧
      (k = 0 → hallmark s = 3 → s.integ.safe = true → keepersClocked s = true → s.rst.pending = false →
        (s.keeper k).run = false → m.pc.isSome = true →
        ∃ t, exec (.debugResume k m) s = .next t ∧ written t ∧ wdtCount t k = 0 ∧
          t.keeper k = { u.keeper k with run := true, pc := pc, wfi := false, wdtStage := false,
                                         wdtAcc := (t.keeper k).wdtAcc, wdtFrom := (t.keeper k).wdtFrom })))

/-- A keeper-alone reset completes a stalled claim, drains and empties the store buffer, frees semaphores and the in-service stack, tells
the peers and restarts a released keeper at its entry address; what the rules keep is kept. -/
def Obligations.KeeperAloneResetKeepsAndClears : Prop :=
  ∀ (k : Fin 4) (left : Nat) (s : State),
    let claims (b : Nat) : Prop := b < 4 ∧ (s.bank b).stalled = some k
    let waits : Prop := ∃ b, claims b ∧ claimStalls s b = true
    ((busRuns s = false ∨ s.rst.pending = true ∨ k = 0 ∨ (s.keeper k).resetDue = false ∨ waits) →
      exec (.keeperAloneReset k left) s = .next s) ∧
    (k = 0 → (busRuns s = false ∨ s.rst.pending = true ∨ s.integ.seqDue = false ∨ waits) → exec (.k0SequencerReset left) s = .next s) ∧
    (∀ v : State, k.val < nKeepers s → busRuns s = true → s.rst.pending = false → (k ≠ 0 → (s.keeper k).resetDue = true) → (k = 0 → s.integ.seqDue = true) →
      ¬ waits → ((∀ b, ¬ claims b) ∧ v = s ∨
        ∃ b : Fin 4, claims b ∧ (∀ c, claims c → c = b.val) ∧ exec (.kicClaimStallEnd b) s = .next v) →
      let kp := v.keeper k
      let d := min left kp.sbuf.length
      let starts : Bool := k = 0 || bitAt s.release k
      ∃ t, exec (if k = 0 then .k0SequencerReset left else .keeperAloneReset k left) s = .next t ∧
        t.keeper k =
          { rstWdt := kp.rstWdt, rstDbl := kp.rstDbl, rstCmd := kp.rstCmd, discard := BitVec.ofNat 8 (min 255 d), wdtEn := kp.wdtEn,
            wdtDbgRun := kp.wdtDbgRun, wdtTimeout := kp.wdtTimeout, stale := kp.stale, ssDsel := kp.ssDsel, ssRsel := kp.ssRsel,
            ssPsel := kp.ssPsel, elogIdx := kp.elogIdx, allocRes := kp.allocRes, allocNext := kp.allocNext, ceIsel := kp.ceIsel,
            run := starts, pc := if starts then entryOf s k else 0, mtimecmp := BitVec.allOnes 64,
            wdtFrom := if starts && kp.wdtEn && s.pwr.st = .run then some s.now else none } ∧
        (∀ j, j < nKeepers s → j ≠ k.val → t.keeper j = { v.keeper j with peerRst := true }) ∧
        (∀ j, nKeepers s ≤ j → j ≠ k.val → t.keeper j = v.keeper j) ∧
        (∀ n, n < 16 → semOwner t n = if semOwner s n = some k then none else semOwner s n) ∧
        t.bank k = { v.bank k with stack := [] } ∧ (∀ b, b ≠ k.val → t.bank b = v.bank b) ∧
        t.wram = (drainSome v k (kp.sbuf.length - d)).wram ∧ t.wramBad = (drainSome v k (kp.sbuf.length - d)).wramBad ∧
        (∀ a, tget 0 t.wideCap a = if a / 2 ^ 20 = k.val then 0 else tget 0 s.wideCap a) ∧
        (∀ a, tget none t.wideHold a = if a / 2 ^ 20 = k.val then none else tget none s.wideHold a) ∧
        (t.pwr.entering = true ↔ s.pwr.entering = true ∨
          s.pwr.st = .run ∧ s.pwr.req = 2 ∧ starts = false ∧ ∀ j, j < nKeepers s → j ≠ k.val → keeperReady t j = true) ∧
        (t.pwr.entering = s.pwr.entering → t.kic = v.kic) ∧
        t.integ = (if k = 0 then { s.integ with seqDue := false, k0Bad := true, lkFlt := s.integ.lkFlt ||| 8,
                                                k0RstCnt := bump s 21 0x022 s.integ.k0RstCnt 1 } else s.integ) ∧
        t = { v with
          keepers := t.keepers, banks := t.banks, sems := t.sems, wram := t.wram, wramBad := t.wramBad, wideCap := t.wideCap,
          wideHold := t.wideHold, integ := t.integ, kic := { v.kic with wsin := t.kic.wsin },
          pwr := { v.pwr with entering := t.pwr.entering } })

/-- The machine timer, the watchdogs of two stages with their kick, the doorbells and the semaphores of the keepers. -/
def Obligations.TimersWatchdogsDoorbellsAndSemaphores : Prop :=
  (∀ (k : Fin 4) (v : Word) (s : State),
    (s.rst.porHeld = false → s.e < (s.keeper k).mtimecmp.toNat → (s.keeper k).mtimecmp.toNat < 2 ^ 52 →
      ∃ t, exec (.mtimecmpMatch k) s = .next t ∧ mtime t = (s.keeper k).mtimecmp.toNat ∧ mtip t k = true ∧
        t.iram = s.iram ∧ t.wram = s.wram ∧ t.store = s.store ∧ t.ss = s.ss ∧ t.ce = s.ce) ∧
    (s.rst.porHeld = true ∨ (s.keeper k).mtimecmp.toNat ≤ s.e ∨ 2 ^ 52 ≤ (s.keeper k).mtimecmp.toNat →
      exec (.mtimecmpMatch k) s = .next s) ∧
    (busRuns s = true → wdtOver s k = true → (s.keeper k).wdtStage = false →
      exec (.wdtWarn k) s = .next (s.setKeeper k
        { s.keeper k with wdtWarn := true, wdtStage := true, wdtAcc := 0, wdtFrom := some s.now })) ∧
    (busRuns s = true → wdtOver s k = true → (s.keeper k).wdtStage = true → keeperDoomed s k = false →
      exec (.wdtExpiry k) s = .next (
        if k = 0 then { s.setKeeper k { s.keeper k with rstWdt := true } with integ := { s.integ with seqDue := true } }
        else s.setKeeper k { s.keeper k with rstWdt := true, resetDue := true })) ∧
    (busRuns s = false ∨ wdtOver s k = false → exec (.wdtWarn k) s = .next s ∧ exec (.wdtExpiry k) s = .next s) ∧
    (keeperActs s k = true →
      let u := drainAll s k
      (v = 0x4B1D → exec (.wdtKick k v) s = .next (u.setKeeper k
        { u.keeper k with wdtStage := false, wdtAcc := 0, wdtFrom := if wdtActive s k then some s.now else none })) ∧
      (v ≠ 0x4B1D → exec (.wdtKick k v) s = .next (u.setKeeper k { u.keeper k with badKick := true })) ∧
      ∃ t, exec (.wdtCfgWrite k v) s = .next t ∧ (t.keeper k).wdtEn = ((s.keeper k).wdtEn || bitAt v 15) ∧
        (t.keeper k).wdtDbgRun = bitAt v 14 ∧ (t.keeper k).wdtTimeout = v.setWidth 12 ∧
        t.keeper k = { u.keeper k with wdtEn := (t.keeper k).wdtEn, wdtDbgRun := (t.keeper k).wdtDbgRun,
                                       wdtTimeout := (t.keeper k).wdtTimeout, wdtAcc := (t.keeper k).wdtAcc,
                                       wdtFrom := (t.keeper k).wdtFrom } ∧
        (∀ j, j ≠ k.val → t.keeper j = u.keeper j) ∧ t = { u with keepers := t.keepers })) ∧
  (∀ (k : Fin 4) (s : State), keeperActs s k = true →
    let u := drainAll s k
    (∀ ring : BitVec 4, ∃ t, exec (.doorbell k ring) s = .next t ∧
      (∀ n, n < nKeepers s → t.bank n =
        if bitAt ring n then { u.bank n with bells := (u.bank n).bells ||| (1#4 <<< k.val) } else u.bank n) ∧
      (∀ n, nKeepers s ≤ n → t.bank n = u.bank n) ∧ t = { u with banks := t.banks }) ∧
    (∀ m : Fin 16, ∃ t, exec (.semRead k m) s = .next t ∧
      semOwner t m = some ((semOwner s m).getD k) ∧
      tget 0 t.rdata k = 0x8000#16 ||| BitVec.ofNat 16 ((semOwner s m).getD k).val ∧
      (∀ n, n ≠ m.val → semOwner t n = semOwner s n) ∧ (∀ j, j ≠ k.val → tget 0 t.rdata j = tget 0 s.rdata j) ∧
      t = { u with sems := t.sems, rdata := t.rdata }) ∧
    (∀ (m : Fin 16) (v : Word),
      (v = 0 ∧ semOwner s m = some k →
        ∃ t, exec (.semWrite k m v) s = .next t ∧ semOwner t m = none ∧ (∀ n, n ≠ m.val → semOwner t n = semOwner s n) ∧
          t = { u with sems := t.sems }) ∧
      (v ≠ 0 ∨ semOwner s m ≠ some k → exec (.semWrite k m v) s = .next u)))

/-- A source's input sets its pending bit by its sensing mode, unless it is in service or firmware has written the pending word in this
cycle; a freeze holds the set back. -/
def Obligations.SourceSensingSetsPending : Prop :=
  ∀ (s : State) (l : Bool), busRuns s = true →
    let hit (mode : Nat) (was : Bool) : Bool := match mode with | 0 => l | 1 => l && !was | 2 => !l && was | _ => l != was
    let quiet := s.pwr.entering = false ∧ s.pwr.st ≠ .doze
    let sensed (x : State) (n : Nat) : State :=
      let set := hit (((tget 0 s.kic.scfg n).toNat / 16) % 4) (bitAt s.kic.sin n) && !sharedInService s n
      let stands := s.fwWrote 12 (0x200 + n / 16 * 2)
      { x with kic := { s.kic with
        sin := setBitTo s.kic.sin n l,
        sheld := if set && anyFrozen s then s.kic.sheld ||| (1#256 <<< n) else s.kic.sheld,
        spend := if set && !anyFrozen s && !stands then s.kic.spend ||| (1#256 <<< n) else s.kic.spend } }
    let ball (b : Nat) : State := { s with pwr := { s.pwr with wakeBalls := setBitTo s.pwr.wakeBalls b l } }
    (∀ n : Fin 256, n.val < 65 ∨ 69 ≤ n.val →
      (n.val ∈ sharedInputs → sharedLevel s n = l →
        (quiet → exec (.kicSourceInput (.shared n) l) s = .next (sensed s n)) ∧
        (∀ w : Fin 16, watchSenses s w = true → watchSrc s w = n.val →
          exec (.kicSourceInput (.shared n) l) s = exec (.watchEvent w) (sensed s n))) ∧
      ((n.val ∉ sharedInputs ∨ sharedLevel s n ≠ l) → exec (.kicSourceInput (.shared n) l) s = .next s)) ∧
    (∀ b : Fin 4,
      (quiet → exec (.kicSourceInput (.shared ⟨65 + b.val, by omega⟩) l) s = .next (sensed (ball b) (65 + b.val))) ∧
      (∀ w : Fin 16, watchSenses s w = true → watchSrc s w = 65 + b.val →
        exec (.kicSourceInput (.shared ⟨65 + b.val, by omega⟩) l) s = exec (.watchEvent w) (sensed (ball b) (65 + b.val)))) ∧
    (∀ (k : Fin 4) (p : Fin 32),
      (k.val < nKeepers s → p.val < 8 → privLevel s k p = l →
        let x := s.bank k
        let set := hit (((tget 0 x.pcfg p).toNat / 16) % 4) (bitAt x.pin p) && !privInService s k p
        let stands := s.fwWrote 12 (0x440 + 0x100 * k.val)
        exec (.kicSourceInput (.priv k p) l) s = .next (s.setBank k { x with
          pin := setBitTo x.pin p l,
          pheld := if set && frozen s k then x.pheld ||| (1#32 <<< p.val) else x.pheld,
          ppend := if set && !frozen s k && !stands then x.ppend ||| (1#32 <<< p.val) else x.ppend,
          bells := if 4 ≤ p.val then x.bells &&& ~~~(1#4 <<< (p.val - 4)) else x.bells })) ∧
      ((nKeepers s ≤ k.val ∨ 8 ≤ p.val ∨ privLevel s k p ≠ l) → exec (.kicSourceInput (.priv k p) l) s = .next s))

/-- A claim returns the top source, clears its pending bit and puts it in service; a completion pops it; pending words are written
whatever the mode; the top source is the eligible one of highest priority that may pre-empt. -/
def Obligations.ClaimCompleteAndPendingWrite : Prop :=
  let claim (x : State) (b k : Nat) : State :=
    let y := x.bank b
    match topSource x b with
    | none => { x with rdata := tput 0 x.rdata k 0x3FF }
    | some (id, pr) =>
      { x.setBank b { y with
          stack := ⟨BitVec.ofNat 10 id, BitVec.ofNat 4 pr⟩ :: y.stack,
          ppend := if id < 0x100 then y.ppend &&& ~~~(1#32 <<< id) else y.ppend } with
        kic := { x.kic with spend := if id < 0x100 then x.kic.spend else x.kic.spend &&& ~~~(1#256 <<< (id - 0x100)) },
        rdata := tput 0 x.rdata k (BitVec.ofNat 16 id) }
  (∀ (r : Req) (v : Word) (s : State), mayWrite s r = true →
    let u := reqWaits s r
    (∀ w : Fin 16, exec (.kicPendingWrite r (.shared w) v) s =
      .next ({ u with kic := { u.kic with spend := setMapWord u.kic.spend w v.toNat } }.fwMark 12 (0x200 + 2 * w.val))) ∧
    (∀ (b : Fin 4) (w : Fin 2), b.val < nKeepers s → exec (.kicPendingWrite r (.priv b w) v) s =
      .next ((u.setBank b { u.bank b with ppend := setMapWord (u.bank b).ppend w v.toNat }).fwMark 12 (0x440 + 0x100 * b.val + 2 * w.val))) ∧
    (∀ (b : Fin 4) (w : Fin 2) (k : Fin 4), nKeepers s ≤ b.val → r = .keeper k →
      exec (.kicPendingWrite r (.priv b w) v) s = .next (u.setKeeper k { u.keeper k with absentHit := true }))) ∧
  (∀ (k b : Fin 4) (s : State), keeperActs s k = true → b.val < nKeepers s →
    let u := drainAll s k
    (claimStalls s b = false → exec (.kicClaim k b) s = .next (claim u b k)) ∧
    (claimStalls s b = true → exec (.kicClaim k b) s = .next (u.setBank b { s.bank b with stalled := some k })) ∧
    (∀ id : BitVec 10,
      (∀ e rest, (s.bank b).stack = e :: rest → e.id = id →
        exec (.kicComplete k b id) s = .next (u.setBank b { s.bank b with stack := rest })) ∧
      ((∀ e rest, (s.bank b).stack = e :: rest → e.id ≠ id) →
        exec (.kicComplete k b id) s = .next (u.setBank b { s.bank b with complErr := true })))) ∧
  (∀ (b : Fin 4) (s : State),
    ((s.bank b).stalled = none ∨ busRuns s = false ∨ claimStalls s b = true → exec (.kicClaimStallEnd b) s = .next s) ∧
    (∀ k, (s.bank b).stalled = some k → busRuns s = true → claimStalls s b = false →
      exec (.kicClaimStallEnd b) s = .next (claim (s.setBank b { s.bank b with stalled := none }) b k))) ∧
  (∀ (b : Fin 4) (s : State),
    let x := s.bank b
    let eligible (id pr : Nat) : Prop :=
      (id < 32 ∧ bitAt x.ppend id = true ∧ bitAt x.pmask id = false ∧ privInService s b id = false ∧
        pr = (tget 0 x.pcfg id).toNat % 16 ∧ x.thresh.toNat < pr) ∨
      (0x100 ≤ id ∧ id < 0x200 ∧ bitAt s.kic.spend (id - 0x100) = true ∧ bitAt s.kic.smask (id - 0x100) = false ∧
        sharedInService s (id - 0x100) = false ∧ (tget 0 s.kic.scfg (id - 0x100)).toNat / 256 % 4 = b.val ∧
        pr = (tget 0 s.kic.scfg (id - 0x100)).toNat % 16 ∧ x.thresh.toNat < pr)
    let above (pr : Nat) : Prop := ∀ e rest, x.stack = e :: rest →
      if x.group then e.prio.toNat / 2 ^ (4 - min x.split.toNat 4) < pr / 2 ^ (4 - min x.split.toNat 4) else e.prio.toNat < pr
    (∀ id pr, topSource s b = some (id, pr) ↔ eligible id pr ∧ above pr ∧
      ∀ i p, eligible i p → p < pr ∨ p = pr ∧ id ≤ i) ∧
    (topSource s b = none ↔ ∀ id pr, eligible id pr → ¬ above pr) ∧ (meip s b = true ↔ topSource s b ≠ none))

/-- FREEZE holds pending sets back and ends by its time-out; the watch senses a source, is hit by its event, and wakes from DOZE and
SLEEP or ends a SLEEP entry. -/
def Obligations.FreezeItsTimeoutAndTheWatch : Prop :=
  (∀ (k : Fin 4) (s : State),
    (keeperActs s k = true →
      exec (.kicFreeze k true) s =
        .next ((drainAll s k).setBank k { s.bank k with freezeAt := some ((s.bank k).freezeAt.getD s.cyc) }) ∧
      exec (.kicFreeze k false) s = .next ((drainAll s k).setBank k { s.bank k with freezeAt := none })) ∧
    (busRuns s = true → ∀ t, (s.bank k).freezeAt = some t →
      (t + 64 ≤ s.cyc → exec (.freezeTmo k) s = .next (s.setBank k { s.bank k with freezeAt := none, freezeTmo := true })) ∧
      (s.cyc < t + 64 → exec (.freezeTmo k) s = .next s)) ∧
    (busRuns s = false ∨ (s.bank k).freezeAt = none → exec (.freezeTmo k) s = .next s)) ∧
  (∀ (w : Fin 16) (s : State),
    let entry (i : Nat) : Word := tget 0 s.kic.watch i
    let src := (entry w).toNat % 256
    let awake := busRuns s = true ∧ (s.pwr.entering = true ∨ s.pwr.st = .doze) ∨ s.pwr.st = .sleep
    let senses := awake ∧ bitAt (entry w) 15 = true ∧ (s.pwr.st = .sleep → src = 42 ∨ (64 ≤ src ∧ src ≤ 68))
    let now := sharedLevel s src
    let was := bitAt s.kic.wsin src
    let event : Prop := match (tget 0 s.kic.scfg src).toNat / 16 % 4 with
      | 0 => now = true | 1 => now = true ∧ was = false | 2 => now = false ∧ was = true | _ => now ≠ was
    let named (i : Nat) : Prop := i < 16 ∧ bitAt (entry i) 15 = true ∧ (entry i).toNat % 256 = src
    let sensed : Kic := { s.kic with wsin := setBitTo s.kic.wsin src now }
    (¬ senses → exec (.watchEvent w) s = .next s) ∧
    (senses → ¬ event → exec (.watchEvent w) s = .next { s with kic := sensed }) ∧
    (senses → event → ∃ t, exec (.watchEvent w) s = .next t ∧
      (∀ i, i < 16 → (bitAt t.kic.watchHit i = true ↔ bitAt s.kic.watchHit i = true ∨ named i)) ∧
      (s.pwr.st = .sleep → ∃ i, named i ∧ (∀ j, j < i → ¬ named j) ∧
        t = { s with kic := { sensed with watchHit := t.kic.watchHit }, pwr := { s.pwr with wake := some (s.pwr.wake.getD (1, i)) } }) ∧
      (s.pwr.st ≠ .sleep →
        (∀ i, i < 256 → (bitAt t.kic.spend i = true ↔ bitAt s.kic.spend i = true ∨
          ∃ x, x < 16 ∧ bitAt t.kic.watchHit x = true ∧ (entry x).toNat % 256 = i)) ∧
        (∀ k, k < nKeepers s → (t.keeper k).wfi = false) ∧
        (∀ k, t.keeper k = { s.keeper k with
          wfi := (t.keeper k).wfi, wdtAcc := (t.keeper k).wdtAcc, wdtFrom := (t.keeper k).wdtFrom }) ∧
        t = { s with
          kic := { sensed with watchHit := t.kic.watchHit, spend := t.kic.spend }, keepers := t.keepers,
          pwr := { s.pwr with st := .run, req := 0, entering := if s.pwr.st = .doze then s.pwr.entering else false,
                              evt := s.pwr.evt ||| (if s.pwr.st = .doze then 1 else 2) } })))

/-- FE_CTRL (RUN stays 0 in SAFE state), FE_PAIR_EN, FE_DCH, FE_DCH_NEG, FE_DEB, the sensor words and the fault enables store what is
written, sticky bits are cleared by 1, bits of absent pairs stay 0 and their words are absent; reads give what stands. -/
def Obligations.FrontEndSettingsAreStored : Prop :=
  ∀ (r : Req) (w : Fin 12) (v : Word) (s : State), mayWrite s r = true →
    let u := reqWaits s r
    let f := u.fe
    let was := s.was.fe
    let a (o : Nat) : W32 := BitVec.ofNat 32 (0x40006000 + o)
    let put (m : PairMap) : PairMap := setMapWord m w v.toNat &&& BitVec.ofNat 192 (2 ^ nPairs s - 1)
    exec (.feCtrlWrite r v) s = .next { u with fe := { f with run := bitAt v 0 && !s.integ.safe } } ∧
    storesTo r v s [(a 0x004, { u with fe := { f with deb := v.setWidth 6 } })] ∧
    readsAs r u [(a 0x000, if f.run then 1 else 0), (a 0x004, f.deb.toNat), (a 0x006, f.vex.toNat)] ∧
    (16 * w.val < nPairs s →
      exec (.fePairEnWrite r w v) s = .next { u with fe := { f with pairEn := put f.pairEn } } ∧
      exec (.feDchWrite r false w v) s = .next { u with fe := { f with dch := put f.dch } } ∧
      exec (.feDchWrite r true w v) s = .next { u with fe := { f with dchNeg := put f.dchNeg } } ∧
      storesTo r v s
        [(a (0x120 + 2 * w.val), { u with fe := { f with faultIe := put f.faultIe } }),
         (a (0x0C0 + 2 * w.val), { u with fe := { f with openStk := clearedWord f.openStk was.openStk w v } }),
         (a (0x0E0 + 2 * w.val), { u with fe := { f with shortStk := clearedWord f.shortStk was.shortStk w v } }),
         (a (0x100 + 2 * w.val), { u with fe := { f with ovrStk := clearedWord f.ovrStk was.ovrStk w v } })] ∧
      readsAs r u
        [(a (0x020 + 2 * w.val), mapWord f.pairEn w), (a (0x040 + 2 * w.val), mapWord f.dch w), (a (0x060 + 2 * w.val), mapWord f.dchNeg w),
         (a (0x0C0 + 2 * w.val), mapWord f.openStk w), (a (0x0E0 + 2 * w.val), mapWord f.shortStk w),
         (a (0x100 + 2 * w.val), mapWord f.ovrStk w), (a (0x120 + 2 * w.val), mapWord f.faultIe w)]) ∧
    (∀ p : Fin 32, p.val < nPods s →
      storesTo r v s [(a (0x400 + 2 * p.val), { u with fe := { f with sensA := tput 0 f.sensA p v } }),
                      (a (0x440 + 2 * p.val), { u with fe := { f with sensG := tput 0 f.sensG p v } })] ∧
      readsAs r u [(a (0x400 + 2 * p.val), (tget 0 f.sensA p).toNat), (a (0x440 + 2 * p.val), (tget 0 f.sensG p).toNat)]) ∧
    (∀ p : Fin 192, p.val < nPairs s → readsAs r u [(a (0x200 + 2 * p.val), (u.pfe p).iex.toNat)]) ∧
    (nPairs s ≤ 16 * w.val → ∀ k, r = .keeper k → ∀ neg,
      exec (.fePairEnWrite r w v) s = .next (u.setKeeper k { u.keeper k with absentHit := true }) ∧
      exec (.feDchWrite r neg w v) s = .next (u.setKeeper k { u.keeper k with absentHit := true }))

/-- At a swap instant enables, DC-HOLD and recognizer parameters come into force, the balls are sampled and AVDD_EX is measured. -/
def Obligations.SwapInstantTakesSettings : Prop :=
  ∀ (m : SwapIn) (s : State), swapInOk m = true →
    (feRuns s = false → exec (.swapInstant m) s = .next s) ∧
    (feRuns s = true → ∃ t, exec (.swapInstant m) s = .next t ∧
      t.fe.lastSwap % 2 ^ 52 % 128 = 0 ∧ s.now ≤ 32 * t.fe.lastSwap ∧ t.now = max s.now (32 * t.fe.lastSwap) ∧
      t.fe.nextSwap = t.fe.lastSwap + 128 ∧ t.fe.running = s.fe.run ∧
      (∀ p, p < nPairs s → ((t.pfe p).st = .off ↔ s.fe.run = false ∨ bitAt s.fe.pairEn p = false) ∧
        (t.pfe p).dch = bitAt s.fe.dch p ∧ (t.pfe p).neg = bitAt s.fe.dchNeg p) ∧
      t.io.ilIn = m.ilHigh &&& BitVec.ofNat 32 (2 ^ nLines s - 1) ∧
      (nVouts s ≠ 0 → t.io.voRef = BitVec.ofNat 16 m.ratioRef) ∧
      (∀ p, p < nPods s → (t.pod p).inForce = (s.pod p).prm) ∧
      t.fe.lastSwap ∈ t.dc.coarseDues ∧
      t.fe.avdd = m.vex ∧ t.fe.vex = (if s.fe.clkFrom + 112 ≤ t.fe.lastSwap then BitVec.ofNat 16 m.vex else s.fe.vex) ∧
      t.fe.run = s.fe.run ∧ t.fe.pairEn = s.fe.pairEn ∧ t.fe.dch = s.fe.dch ∧ t.io.ports = s.io.ports ∧ t.io.loops = s.io.loops ∧
      t.iram = s.iram ∧ t.wram = s.wram ∧ t.store = s.store ∧ t.ss = { s.ss with ord := t.ss.ord } ∧
      t.arb = s.arb ∧ t.img = s.img ∧ t.bc = s.bc ∧ t.tw = { s.tw with alert := t.tw.alert, alertSeen := t.tw.alertSeen })

/-- The measurement that a swap instant brings decides OPEN, SHORT and OK after DEB measurements (0 acts as 1), decisions are carried
out, and an overload sets its sticky bit. -/
def Obligations.PairStatesAndOverloads : Prop :=
  (∀ (p : Fin 192) (s : State),
    (feRuns s = true → p.val < nPairs s →
      exec (.modulatorOverload p) s = .next { s with fe := { s.fe with ovrStk := s.fe.ovrStk ||| (1#192 <<< p.val) } }) ∧
    ((feRuns s = false ∨ nPairs s ≤ p.val) → exec (.modulatorOverload p) s = .next s)) ∧
  (∀ (m : SwapIn) (s : State), swapInOk m = true → feRuns s = true → ∃ t, exec (.swapInstant m) s = .next t ∧
    ∀ p, p < nPairs s → (s.pfe p).decide = none →
      let T := t.fe.lastSwap
      let x : PairFe := { s.pfe p with dch := bitAt s.fe.dch p, neg := bitAt s.fe.dchNeg p }
      let deb := max 1 s.fe.deb.toNat
      let c := nth 0 m.current p
      let shown : Word := BitVec.ofNat 16 (min c 16165)
      let wanted := s.fe.run = true ∧ bitAt s.fe.pairEn p = true
      let measured := s.fe.running = true ∧ s.fe.clkFrom + 112 ≤ T
      (¬ wanted → t.pfe p = { x with st := .off, runOpen := 0, runShort := 0, runBack := 0, iex := 0 }) ∧
      (wanted → x.st = .off → t.pfe p = { x with st := .ok, runOpen := 0, runShort := 0, runBack := 0, iex := 0, okFrom := T }) ∧
      (wanted → x.st ≠ .off → ¬ measured → t.pfe p = x) ∧
      (wanted → x.st = .ok → measured → t.pfe p = { x with
        iex := shown, runOpen := (if c < 20 then x.runOpen + 1 else 0), runShort := (if 12000 < c then x.runShort + 1 else 0),
        decide := if c < 20 ∧ deb ≤ x.runOpen + 1 then some .opn else if 12000 < c ∧ deb ≤ x.runShort + 1 then some .short else none }) ∧
      (wanted → x.st = .opn ∨ x.st = .short → measured →
        let back : Bool := if x.st = .opn then decide (30 ≤ c) else decide (c ≤ 10000)
        t.pfe p = { x with iex := shown, runBack := (if back then x.runBack + 1 else 0),
                           decide := if back ∧ deb ≤ x.runBack + 1 then some .ok else none })) ∧
  (∀ (p : Fin 192) (s : State),
    ((feRuns s = false ∨ (s.pfe p).decide = none) → exec (.pairStateDecision p) s = .next s) ∧
    (∀ st, feRuns s = true → (s.pfe p).decide = some st →
      ∃ t, exec (.pairStateDecision p) s = .next t ∧
        t.pfe p = { s.pfe p with st := st, decide := none, runOpen := 0, runShort := 0, runBack := 0,
                                 okFrom := if st = .ok then s.fe.lastSwap else (s.pfe p).okFrom } ∧
        (∀ q, q ≠ p.val → t.pfe q = s.pfe q) ∧
        t.fe.openStk = (if st = .opn then s.fe.openStk ||| (1#192 <<< p.val) else s.fe.openStk) ∧
        t.fe.shortStk = (if st = .short then s.fe.shortStk ||| (1#192 <<< p.val) else s.fe.shortStk) ∧
        t = { s with pairFe := t.pairFe, ce := t.ce,
                     fe := { s.fe with openStk := t.fe.openStk, shortStk := t.fe.shortStk, podsChanged := t.fe.podsChanged } }))

/-- The CIC's integrators and combs modulo 2^28 give exactly the convolution with the coefficients of the fourfold 64-sum. -/
def Obligations.CicIsFourfoldMovingSum : Prop :=
  (∀ (blocks : List (Bool × BitVec 64)) (last : Bool × BitVec 64),
    let all := blocks ++ [last]
    let run := blocks.foldl (fun c b => (cicComb (cicRun c b.1 b.2)).2) ({} : Cic)
    let d (n : Nat) : Int := match all[n / 64]? with
      | some b => if bitAt b.2 (n % 64) = b.1 then 1 else -1
      | none => 0
    let t := 64 * all.length
    (cicComb (cicRun run last.1 last.2)).1 =
      ((List.range 253).map (fun k => if k < t then cicTap k * d (t - 1 - k) else 0)).sum) ∧
  ((List.range 253).map cicTap).sum = 2 ^ 24 ∧ ∀ k, 253 ≤ k → cicTap k = 0

/-- At a CIC output instant every pair's registers take its 64 bits and its output is kept, except in the four after a restart. -/
def Obligations.CicOutputFeedsEveryPair : Prop :=
  ∀ (bits : List (BitVec 64)) (s : State),
    (bits.length ≠ 192 → exec (.cicOutput bits) s = .refused (.illFormed "CIC_OUTPUT")) ∧
    (bits.length = 192 → feRuns s = false → exec (.cicOutput bits) s = .next s) ∧
    (bits.length = 192 → feRuns s = true → ∃ t T, exec (.cicOutput bits) s = .next t ∧
      t.dc.nextCic = T + 64 ∧ T % 2 ^ 52 % 64 = 0 ∧ s.now ≤ 32 * T ∧
      (∀ p, p < nPairs s → sliceOn s p = false → (s.pdc p).restartDue = none → (s.pdc p).change = none →
        let r := cicComb (cicRun (s.pdc p).cic (fePositive s p (T - 64)) (nth 0 bits p))
        (t.pdc p).cic = r.2 ∧
        (t.pdc p).ys = (if (s.pdc p).acceptFrom ≤ T then (r.1 :: (s.pdc p).ys).take 11 else (s.pdc p).ys)) ∧
      t.iram = s.iram ∧ t.wram = s.wram ∧ t.store = s.store ∧ t.ss = { s.ss with ord := t.ss.ord } ∧ t.ce = s.ce ∧ t.fe = s.fe ∧ t.img = s.img)

/-- A filter output is the exact FIR or TOUCHSTONE sum, divided with rounding to nearest, ties away from zero, and saturated;
its flags are FAULT, HOLD and RESTART, and a pair under a datapath slice has none. -/
def Obligations.FilterOutputsAreExactAndRounded : Prop :=
  ((∀ (a : Int) (b : Nat), 0 < b →
    let q := roundDiv a b
    2 * (a - b * q).natAbs ≤ b ∧ (2 * (a - b * q).natAbs = b → a.natAbs ≤ (b * q).natAbs) ∧ roundDiv (-a) b = -q) ∧
  (∀ v : Int, (sat16 v).toInt = if v < -32768 then -32768 else if 32767 < v then 32767 else v)) ∧
  (∀ (m : Fin 8) (s : State),
    let c : Instr := if h : m.val < 6 then .presetOutput ⟨m.val, h⟩ else .touchstoneOutput (m == 7)
    (feRuns s = false → exec c s = .next s) ∧
    (feRuns s = true → ∃ t T, exec c s = .next t ∧ t.dc.dues = s.dc.dues ++ [(T, m.val)] ∧
      T % 2 ^ 52 % modePeriod m = 0 ∧ s.now ≤ 32 * T ∧ tget 0 t.dc.nextOut m = T + modePeriod m ∧
      (∀ p, p < nPairs s → cwMode (s.pdc p).filt.word = m.val → (s.pdc p).change = none → (s.pdc p).restartDue = none →
        (s.pfe p).decide = none →
        let f := (s.pdc p).filt
        let half := setHalf s (cwSet f.word)
        let U : Int := if 6 ≤ m.val then roundDiv f.tacc (256 * touchM m)
          else roundDiv (((half ++ half.reverse).zip f.bs).map (fun e => e.1 * e.2)).sum (2 ^ 33 * blockOf m)
        let filled := (s.pdc p).s0 + spanOf s f.word + (if 6 ≤ m.val then 0 else 128 * f.pad) + 67 ≤ T
        (sliceTakes s p T = true → t.pdc p = s.pdc p) ∧
        (sliceTakes s p T = false → filled → ∃ o, (t.pdc p).outs = (s.pdc p).outs ++ [o] ∧ o.at_ = T ∧ o.mode = m.val ∧ o.value = sat16 U ∧
          o.flags = flagByte (faultIn s p T (windowOf s f)) (s.pfe p).dch (s.pdc p).markFinal false ∧
          (bitAt t.dc.satStk p = true ↔ bitAt s.dc.satStk p = true ∨ U < -32768 ∨ 32767 < U)) ∧
        (sliceTakes s p T = false → ¬ filled → (t.pdc p).outs = (s.pdc p).outs)) ∧
      t.iram = s.iram ∧ t.wram = s.wram ∧ t.store = s.store ∧ t.ss = { s.ss with ord := t.ss.ord } ∧ t.img = s.img))

/-- A delivery brings a pair's coarse value, final sample or fade sample to its registers, and the last fade sample ends the change. -/
def Obligations.DeliveriesUpdateRegisters : Prop :=
  ∀ s : State,
    (feRuns s = false → exec .coarseDelivery s = .next s ∧ exec .finalSampleDelivery s = .next s) ∧
    (s.dc.coarseDues = [] → exec .coarseDelivery s = .next s) ∧ (s.dc.dues = [] → exec .finalSampleDelivery s = .next s) ∧
    (∀ at_ rest, feRuns s = true → s.dc.coarseDues = at_ :: rest →
      ∃ t, exec .coarseDelivery s = .next t ∧ t.dc.coarseDues = rest ∧ t.now = max s.now (32 * (at_ + 35)) ∧
        (∀ p v fl, p < nPairs s → (s.pdc p).restartDue = none → (s.pfe p).decide = none →
          (s.pdc p).coarseNow = some (at_, v, fl) → (t.pdc p).coarse = BitVec.ofInt 16 v) ∧
        t.iram = s.iram ∧ t.wram = s.wram ∧ t.store = s.store ∧ t.img = s.img ∧ t.io = s.io) ∧
    (∀ at_ m, feRuns s = true → firstDue s.dc.dues = some (at_, m) →
      ∃ t, exec .finalSampleDelivery s = .next t ∧ (at_, m) ∉ t.dc.dues ∧ t.now = max s.now (32 * (at_ + modeDelay m)) ∧
        (∀ p, p < nPairs s → (s.pdc p).restartDue = none → (s.pfe p).decide = none →
          (∀ o, (s.pdc p).change = none → (s.pdc p).outs = [o] → o.at_ = at_ → o.mode = m →
            (t.pdc p).last = o.value ∧ (t.pdc p).lastFlags = o.flags ∧ (t.pdc p).hasOut = true) ∧
          (∀ c a b, (s.pdc p).change = some c → c.running = true → c.fade ≤ at_ → c.uOld = some (at_, a) → c.uNew = some (at_, b) →
            (s.pdc p).outs = [] → fadeMode (s.pdc p).filt.word c.word = m →
            let slow := slowPeriod (s.pdc p).filt.word c.word
            let L := cwFade c.word
            let k := (at_ - c.fade) / slow + 1
            (at_ - c.fade) % slow = 0 → k ≤ L →
            (t.pdc p).last = sat16 (roundDiv (((L : Int) - k) * a + k * b) L) ∧ (t.pdc p).hasOut = true ∧
            (k = L → (t.pdc p).change = none ∧ (t.pdc p).filt.word = c.new.word ∧ bitAt t.dc.busy p = false ∧
              bitAt t.dc.doneStk p = true))) ∧
        t.iram = s.iram ∧ t.wram = s.wram ∧ t.store = s.store ∧ t.img = s.img ∧ t.io = s.io)

/-- DC_GO captures DC_NEXT and sets BUSY, or sets the reject bit and counts; DC_NEXT and DC_RESTART writes; the change
starts, with its alignment. That an installed word of another MODE or SET starts with cleared state is the model's choice (log 56). -/
def Obligations.LiveChangeIsAcceptedOrRejected : Prop :=
  ∀ (r : Req) (p : Fin 192) (v : Word) (s : State), p.val < nPairs s → sliceOn s p = false →
    let u := reqWaits s r
    let pd := s.pdc p
    let a (o : Nat) : W32 := BitVec.ofNat 32 (0x40007000 + o)
    let installed (x : Word) (pad : Nat) : Filt :=
      if cwMode pd.filt.word = cwMode x ∧ cwSet pd.filt.word = cwSet x then { pd.filt with word := x, pad := pad } else { word := x, pad := pad }
    let bit := (1#16 <<< (p.val % 16))
    let w : Fin 12 := ⟨p.val / 16, by omega⟩
    let bad := bitAt s.dc.busy p || (cwMode pd.next < 6 && s.dc.sets.toNat ≤ cwSet pd.next)
    (mayWrite s r = true →
      (bad = true → exec (.dcGo r w bit) s =
        .next { u with dc := { u.dc with rejStk := u.dc.rejStk ||| (1#192 <<< p.val), rejCnt := bump u 7 0x002 u.dc.rejCnt 1 } }) ∧
      (bad = false → ∃ t S, exec (.dcGo r w bit) s = .next t ∧ t.dc.busy = s.dc.busy ||| (1#192 <<< p.val) ∧
        t.pdc p = { pd with change := some { word := pd.next, start := S } } ∧ s.per < S ∧
        S % 2 ^ 52 % (max (modePeriod (cwMode pd.filt.word)) (modePeriod (cwMode pd.next))) = 0 ∧
        (∀ q, q ≠ p.val → t.pdc q = s.pdc q) ∧ t = { u with dc := { u.dc with busy := t.dc.busy }, pairDc := t.pairDc }) ∧
      exec (.dcNextWrite r p v) s = .next (u.setPdc p (
        if s.fe.running = false ∧ bitAt s.dc.busy p = false then
          { pd with next := v &&& 0x70FF, filt := installed (v &&& 0x70FF) 0, pad := 0 }
        else { pd with next := v &&& 0x70FF })) ∧
      exec (.dcRestart r w bit) s = .next (u.setPdc p { pd with restartReq := some 0 }) ∧
      storesTo r v s
        [(a 0x002, { u with dc := { u.dc with rejCnt := v } }.fwMark 7 2), (a 0x004, { u with dc := { u.dc with discard := v } }.fwMark 7 4),
         (a (0x080 + 2 * w.val), { u with dc := { u.dc with
           doneIe := setMapWord u.dc.doneIe w v.toNat &&& BitVec.ofNat 192 (2 ^ nPairs s - 1) } }),
         (a (0x060 + 2 * w.val), { u with dc := { u.dc with doneStk := clearedWord u.dc.doneStk s.was.dc.doneStk w v } }),
         (a (0x0A0 + 2 * w.val), { u with dc := { u.dc with rejStk := clearedWord u.dc.rejStk s.was.dc.rejStk w v } }),
         (a (0x0C0 + 2 * w.val), { u with dc := { u.dc with alskipStk := clearedWord u.dc.alskipStk s.was.dc.alskipStk w v } }),
         (a (0x0E0 + 2 * w.val), { u with dc := { u.dc with satStk := clearedWord u.dc.satStk s.was.dc.satStk w v } })] ∧
      readsAs r u
        [(a 0x000, s.dc.sets.toNat), (a 0x002, s.dc.rejCnt.toNat), (a 0x004, s.dc.discard.toNat), (a (0x040 + 2 * w.val), mapWord s.dc.busy w),
         (a (0x060 + 2 * w.val), mapWord s.dc.doneStk w), (a (0x0A0 + 2 * w.val), mapWord s.dc.rejStk w),
         (a (0x200 + 2 * p.val), pd.filt.word.toNat), (a (0x400 + 2 * p.val), pd.next.toNat), (a (0x600 + 2 * p.val), pd.pad % 65536),
         (a (0x800 + 2 * p.val), pd.coarse.toNat), (a (0xA00 + 2 * p.val), pd.last.toNat)]) ∧
    (∀ c, pd.change = some c → c.running = false → feRuns s = true → c.start ≤ s.per →
      let same := cwMode c.word = cwMode pd.filt.word ∧ cwSet c.word = cwSet pd.filt.word
      ((s.pfe p).st = .off ∨ same →
        ∃ t, exec (.dcChangeStart p) s = .next t ∧ t.pdc p = { pd with change := none, filt := installed c.word pd.pad } ∧
          t.dc = { s.dc with busy := s.dc.busy &&& ~~~(1#192 <<< p.val), doneStk := s.dc.doneStk ||| (1#192 <<< p.val) } ∧
          (∀ q, q ≠ p.val → t.pdc q = s.pdc q) ∧ t = { s with dc := t.dc, pairDc := t.pairDc }) ∧
      (∀ F : Nat, (s.pfe p).st ≠ .off → ¬ same → cwAlign c.word = true →
        let slow := max (modePeriod (cwMode pd.filt.word)) (modePeriod (cwMode c.word))
        let new := delayOf s c.word
        let old := delayOf s pd.filt.word + 128 * pd.pad
        let k := (if new ≤ old then old - new else new - old) / 128
        let fits := cwMode pd.filt.word < 6 ∧ cwMode c.word < 6 ∧ (if new ≤ old then k ≤ 2048 else pd.pad + k ≤ 2048)
        let first (x : Nat) : Prop := x ≤ F ∧ F % 2 ^ 52 % slow = 0 ∧ ∀ y, x ≤ y → y % 2 ^ 52 % slow = 0 → F ≤ y
        let begins (d : Dc) (n : Filt) (e : Nat) (g : Option Nat) (l : Nat) : Prop :=
          exec (.dcChangeStart p) s = .next ({ s with dc := d }.setPdc p { pd with
            change := some { c with running := true, new := n, fade := F, padEnd := e, glideFrom := g, glidePad := l } })
        (¬ fits → first (c.start + spanOf s c.word) →
          begins { s.dc with alskipStk := s.dc.alskipStk ||| (1#192 <<< p.val) } { word := c.word } 0 c.glideFrom c.glidePad) ∧
        (fits → new ≤ old → first (c.start + spanOf s c.word + 128 * k) → begins s.dc { word := c.word, pad := k } k c.glideFrom c.glidePad) ∧
        (fits → old < new → first (max (c.start + spanOf s c.word) (c.start + 128 * k + spanOf s pd.filt.word)) →
          begins s.dc { word := c.word } 0 (some (c.start + 128 * k)) (pd.pad + k))) ∧
      ((s.pfe p).st ≠ .off → ¬ same → cwAlign c.word = false →
        ∃ t F, exec (.dcChangeStart p) s = .next t ∧
          t.pdc p = { pd with change := some { c with running := true, new := { word := c.word }, fade := F, padEnd := 0 } } ∧
          c.start + spanOf s c.word ≤ F ∧
          F % 2 ^ 52 % (max (modePeriod (cwMode pd.filt.word)) (modePeriod (cwMode c.word))) = 0 ∧
          (∀ q, q ≠ p.val → t.pdc q = s.pdc q) ∧ t = { s with pairDc := t.pairDc }))

/-- A restart clears the pair's chain, discards four CIC outputs, counts them, abandons a live change and owes each stream its GAP; a
DC_GO that a slice held back acts at it. -/
def Obligations.ChainRestartClears : Prop :=
  ∀ (p : Fin 192) (s : State),
    ((feRuns s = false ∨ (s.pdc p).restartDue = none) → exec (.chainRestart p) s = .next s) ∧
    (∀ S reason, feRuns s = true → (s.pdc p).restartDue = some (S, reason) →
      let pd := s.pdc p
      let went := pd.change.isSome
      let word := match pd.change with | some c => c.word | none => pd.filt.word
      let pad := if went then 0 else pd.pad
      let clear : PairDc :=
        { pd with cic := {}, ys := [], hs := [], outs := [], change := none, filt := { word := word, pad := pad }, pad := pad, s0 := S,
                  acceptFrom := S + 320, restartDue := none, markFinal := true, markCoarse := true, hasOut := false, coarseNow := none,
                  restart := some ⟨reason, S, 32 * s.ss.ord⟩, shownS := [], missS := [], shownC := [], missC := [],
                  heldGo := none, heldRestart := false }
      let dc : Dc := { s.dc with
        discard := bump s 7 0x004 s.dc.discard 4,
        busy := if went then s.dc.busy &&& ~~~(1#192 <<< p.val) else s.dc.busy,
        doneStk := if went then s.dc.doneStk ||| (1#192 <<< p.val) else s.dc.doneStk }
      let u : State := { s with dc := dc, ss := { s.ss with ord := s.ss.ord + 1 } }.setPdc p clear
      (pd.heldGo = none → exec (.chainRestart p) s = .next u) ∧
      (∀ w, pd.heldGo = some w →
        let bad := bitAt dc.busy p || (cwMode w < 6 && s.dc.sets.toNat ≤ cwSet w)
        (bad = true → exec (.chainRestart p) s =
          .next { u with dc := { dc with rejStk := dc.rejStk ||| (1#192 <<< p.val), rejCnt := bump s 7 0x002 dc.rejCnt 1 } }) ∧
        (bad = false → ∃ F, s.per < F ∧ F % 2 ^ 52 % (max (modePeriod (cwMode word)) (modePeriod (cwMode w))) = 0 ∧
          exec (.chainRestart p) s = .next ({ u with dc := { dc with busy := dc.busy ||| (1#192 <<< p.val) } }.setPdc p
            { clear with change := some { word := w, start := F } }))))

/-- The three leases are granted if free, renewed and released by the holder only, and end with a fault bit when TMO has run out. -/
def Obligations.LeasesAreGrantedRenewedAndLost : Prop :=
  (∀ (k : Fin 4) (s : State), keeperActs s k = true →
    let u := drainAll s k
    let got (l : Lease) : Lease :=
      if l.held = true ∧ l.owner ≠ k then l else { l with held := true, owner := k, since := s.cyc, tmoInForce := max 1 l.tmo.toNat }
    let gave (l : Lease) : Lease := if l.held = true ∧ l.owner = k then { l with held := false } else l
    exec (.ssLeaseAcquire k) s = .next { u with ss := { u.ss with lease := got u.ss.lease } } ∧
    exec (.ceLeaseAcquire k) s = .next { u with ce := { u.ce with lease := got u.ce.lease } } ∧
    exec (.imgLeaseAcquire k) s = .next { u with img := { u.img with lease := got u.img.lease } } ∧
    exec (.ssLeaseRelease k) s = .next { u with ss := { u.ss with lease := gave u.ss.lease } } ∧
    exec (.ceLeaseRelease k) s = .next { u with ce := { u.ce with lease := gave u.ce.lease } } ∧
    exec (.imgLeaseRelease k) s = .next { u with img := { u.img with lease := gave u.img.lease } }) ∧
  (∀ s : State,
    let past (l : Lease) : Prop := busRuns s = true ∧ l.held = true ∧ l.since + 1024 * l.tmoInForce ≤ s.cyc
    (past s.ss.lease → exec .ssLeaseExpiry s = .next { s with ss := { s.ss with
      lease := { s.ss.lease with held := false }, flt := s.ss.flt ||| 2, lastOwner := s.ss.lease.owner } }) ∧
    (past s.ce.lease → exec .ceLeaseExpiry s = .next { s with ce := { s.ce with
      lease := { s.ce.lease with held := false }, flt := s.ce.flt ||| 0x400, lastOwner := s.ce.lease.owner } }) ∧
    (past s.img.lease → exec .imgLeaseExpiry s = .next { s with img := { s.img with
      lease := { s.img.lease with held := false }, flt := s.img.flt ||| 0x20, lastOwner := s.img.lease.owner } }) ∧
    (¬ past s.ss.lease → exec .ssLeaseExpiry s = .next s) ∧ (¬ past s.ce.lease → exec .ceLeaseExpiry s = .next s) ∧
    (¬ past s.img.lease → exec .imgLeaseExpiry s = .next s))

/-- ARM_STREAM starts the check and judges K x N, ARM_CHECK_END arms the stream or gives the first failing check, DISARM_STREAM cancels
the check or disarms; a record in progress is still written. -/
def Obligations.StreamsAreArmedAfterTheChecks : Prop :=
  (∀ (r : Req) (v : Word) (s : State),
    (bitAt v 15 = false → exec (.armStream r v) s = .refused (.illFormed "ARM_STREAM")) ∧
    (bitAt v 15 = true → exec (.disarmStream r v) s = .refused (.illFormed "DISARM_STREAM")) ∧
    (mayWrite s r = true →
      let u := reqWaits s r
      let n := (u.keeper (reqKeeper r)).ssDsel.toNat
      let st := { u.strm n with wmIe := bitAt v 3, wmArm := bitAt v 2 }
      let set := { st with kind := v.extractLsb' 12 3, overwrite := bitAt v 11, mode := v.extractLsb' 8 3, km1 := v.extractLsb' 4 4 }
      let tooMany := set.kind = 2 ∧ 1362 < (set.km1.toNat + 1) *
        (List.range (nPairs s)).countP (fun p => bitAt (tget 0 s.ss.pcoarse p) 8 && (tget 0 s.ss.pcoarse p).toNat % 256 == n)
      (bitAt v 15 = true → exec (.armStream r v) s =
        .next ((u.setStrm n (if st.armed || st.checking then st
                             else { set with checking := true, armErr := 0, slotsOver := decide tooMany })).fwMark 8 0x002 n)) ∧
      (bitAt v 15 = false → exec (.disarmStream r v) s =
        .next ((u.setStrm n (if st.checking then { st with checking := false, armErr := 7 }
                             else if st.armed then { st with armed := false, lastOrd := inProgress s n } else set)).fwMark 8 0x002 n)))) ∧
  (∀ (n : Fin 256) (s : State),
    ((busRuns s = false ∨ (s.strm n).checking = false) → exec (.armCheckEnd n) s = .next s) ∧
    (busRuns s = true → (s.strm n).checking = true →
      let st := s.strm n
      let rb := st.rbase.toNat
      let rl := st.rlen.toNat
      let ring := (List.range rl).map (fun i => (tget 0 s.ss.ring (rb + i)).toNat)
      let other (o : Nat × Stream) : Prop := o ∈ s.ss.streams ∧ o.1 ≠ n.val ∧ (o.2.armed = true ∨ o.2.checking = true) ∧ o.2.kind ≠ 5
      let bad1 := st.kind = 0 ∨ 5 < st.kind.toNat
      let bad6 := st.kind = 5 ∧ ∃ o ∈ s.ss.streams, o.1 ≠ n.val ∧ o.2.armed = true ∧ o.2.kind = 5
      let bad2 := rl = 0 ∨ 8192 < rl ∨ 8192 < rb + rl
      let bad3 := ∃ o, other o ∧ rb < o.2.rbase.toNat + o.2.rlen.toNat ∧ o.2.rbase.toNat < rb + rl
      let bad4 := (∃ p ∈ ring, (s.page p).st ≠ .allocated ∧ (s.page p).st ≠ .retirePending) ∨ ¬ ring.Nodup ∨
        ∃ p ∈ ring, ∃ o, other o ∧ p ∈ ringPages s o.2
      let bad5 := st.slotsOver = true
      let fails (c : BitVec 3) : Prop := exec (.armCheckEnd n) s = .next (s.setStrm n { st with checking := false, armErr := c })
      let arms : Prop := exec (.armCheckEnd n) s = .next (s.setStrm n { st with
        checking := false, armed := true, armErr := 0, head := 0, tail := 0, keptLevel := none, lastRec := s.per,
        asmFirst := none, asmSlots := [], asmGaps := [], armOrd := 32 * s.ss.ord, lastOrd := none })
      (bad1 → fails 1) ∧ (bad6 → fails 6) ∧ (st.kind = 5 → ¬ bad6 → arms) ∧
      (¬ bad1 → st.kind ≠ 5 →
        (bad2 → fails 2) ∧ (¬ bad2 → bad3 → fails 3) ∧ (¬ bad2 → ¬ bad3 → bad4 → fails 4) ∧
        (¬ bad2 → ¬ bad3 → ¬ bad4 → bad5 → fails 5) ∧ (¬ bad2 → ¬ bad3 → ¬ bad4 → ¬ bad5 → arms))))

/-- TAIL moves only from TAIL towards HEAD, HEAD only of a LOCKET stream; the status read marks the stream seen; SS_PSAMP and SS_PCOARSE;
the settings, select, counter and write-1-to-clear registers of the SS_ block. -/
def Obligations.PositionWritesAndStatusRead : Prop :=
  ∀ (r : Req) (s : State), mayWrite s r = true →
    let u := reqWaits s r
    let k := reqKeeper r
    let n := (u.keeper k).ssDsel.toNat
    let st := u.strm n
    let cap := 2048 * (if st.kind = 5 then 16 else if st.rlen.toNat ≤ 8192 then st.rlen.toNat else 0)
    let W := if cap = 0 then 0 else 2 ^ 32 / cap * cap
    let diff (x y : Nat) : Nat := if W = 0 then 0 else (x % W + W - y % W) % W
    let level := st.keptLevel.getD (diff st.head st.tail)
    let bits (x : Stream) (new : Nat) : Stream :=
      if level < st.wm.toNat ∧ st.wm.toNat ≤ new then (if st.wmArm then { x with wmHit := true, wmArm := false, seen := false } else x)
      else if st.wm.toNat ≤ level ∧ new < st.wm.toNat ∧ st.wmHit = true ∧ st.seen = false then { x with wmReceded := true } else x
    let moved (v : Nat) : Stream :=
      if v < W ∧ diff v st.tail ≤ level then
        bits { st with tail := v, keptLevel := st.keptLevel.map (fun l => l - diff v st.tail) }
          ((st.keptLevel.map (fun l => l - diff v st.tail)).getD (diff st.head v))
      else { st with tailErr := true }
    let before := ((tget {} s.was.ss.streams n) : Stream).tail
    let spent (t : State) (a : Nat) : Prop := tget none t.wideHold (wideKey (reqIndex r) a) = none ∧
      ∀ key, key ≠ wideKey (reqIndex r) a → tget none t.wideHold key = tget none u.wideHold key
    let frame (t : State) : Prop := (∀ m, m ≠ n → t.strm m = u.strm m) ∧
      t = { u with ss := { u.ss with streams := t.ss.streams }, wideHold := t.wideHold }
    let a (o : Nat) : W32 := BitVec.ofNat 32 (0x40008000 + o)
    (∀ v : W32,
      (∃ t, exec (.ssDTailWrite r v) s = .next t ∧ spent t 0x4000800C ∧ frame t ∧
        (st.movedAt ≠ s.cyc + 1 → t.strm n = moved v.toNat) ∧
        (st.movedAt = s.cyc + 1 → t.strm n =
          if v.toNat < W ∧ diff v.toNat before < diff st.tail before then st else moved v.toNat)) ∧
      (∃ t, exec (.ssDHeadWrite r v) s = .next t ∧ spent t 0x40008008 ∧ frame t ∧
        t.strm n = if st.kind = 5 then bits { st with head := v.toNat, keptLevel := none } (diff v.toNat st.tail) else st)) ∧
    (∀ k, r = .keeper k → ∃ t, exec (.ssDStatRead k) s = .next t ∧ t.strm n = { st with seen := true } ∧
      (∀ m, m ≠ n → t.strm m = u.strm m) ∧
      (let w := tget 0 t.rdata k
       bitAt w 0 = st.wmHit ∧ bitAt w 1 = st.wmReceded ∧ bitAt w 2 = st.dropped ∧ bitAt w 3 = st.overwritten ∧
       bitAt w 4 = st.tailErr ∧ bitAt w 5 = st.checking ∧ w.extractLsb' 8 3 = st.armErr) ∧
      (∀ j, j ≠ k.val → tget 0 t.rdata j = tget 0 u.rdata j) ∧
      t = { u with ss := { u.ss with streams := t.ss.streams }, rdata := t.rdata }) ∧
    (∀ (p : Fin 192) (v : Word),
      let q := tput 0 u.ss.pcoarse p (v &&& 0x1FF)
      let m := v.toNat % 256
      let slots := ((u.strm m).km1.toNat + 1) * (List.range (nPairs s)).countP (fun i => bitAt (tget 0 q i) 8 && (tget 0 q i).toNat % 256 == m)
      let past := ((u.strm m).armed = true ∨ (u.strm m).checking = true) ∧ (u.strm m).kind = 2 ∧ bitAt v 8 = true ∧ 1362 < slots
      (p.val < nPairs s →
        exec (.ssPcoarseWrite r false p v) s = .next { u with ss := { u.ss with psample := tput 0 u.ss.psample p (v &&& 0x1FF) } } ∧
        exec (.ssPcoarseWrite r true p v) s =
          .next (if past then u.setStrm m { u.strm m with tailErr := true } else { u with ss := { u.ss with pcoarse := q } })) ∧
      (nPairs s ≤ p.val → ∀ k c, r = .keeper k →
        exec (.ssPcoarseWrite r c p v) s = .next (u.setKeeper k { u.keeper k with absentHit := true }))) ∧
    (∀ v : Word,
      let x := u.ss
      let w : Stream := tget {} s.was.ss.streams n
      let ring := (u.keeper k).ssRsel.toNat
      let bound (z : Stream) : Prop := z.armed = true ∨ z.checking = true
      let kept : Prop := ∃ e ∈ x.streams, bound e.2 ∧ e.2.kind ≠ 5 ∧ e.2.rbase.toNat ≤ ring ∧ ring < e.2.rbase.toNat + e.2.rlen.toNat
      storesTo r v s
        [(a 0x000, u.setKeeper k { u.keeper k with ssDsel := v.setWidth 8 }), (a 0x020, u.setKeeper k { u.keeper k with ssRsel := v.setWidth 13 }),
         (a 0x024, u.setKeeper k { u.keeper k with ssPsel := v.setWidth 13 }), (a 0x070, u.setKeeper k { u.keeper k with elogIdx := v.setWidth 6 }),
         (a 0x004, if st.armed || st.checking then u else u.setStrm n { st with rbase := v.setWidth 13 }),
         (a 0x006, if st.armed || st.checking then u else u.setStrm n { st with rlen := v.setWidth 14 }),
         (a 0x018, u.setStrm n { st with
           wmHit := st.wmHit && !(bitAt v 0 && w.wmHit), wmReceded := st.wmReceded && !(bitAt v 1 && w.wmReceded),
           dropped := st.dropped && !(bitAt v 2 && w.dropped), overwritten := st.overwritten && !(bitAt v 3 && w.overwritten),
           tailErr := st.tailErr && !(bitAt v 4 && w.tailErr) }),
         (a 0x01A, (u.setStrm n { st with drop := v }).fwMark 8 0x01A n),
         (a 0x032, { u with ss := { x with lease := { x.lease with tmo := v } } }), (a 0x038, { u with ss := { x with freePage := v.setWidth 13 } }),
         (a 0x040, { u with ss := { x with flt := cleared x.flt s.was.ss.flt v } }), (a 0x042, { u with ss := { x with fltIe := v.setWidth 7 } }),
         (a 0x048, { u with ss := { x with freeFcnt := v } }.fwMark 8 0x048), (a 0x056, { u with ss := { x with scrubSkip := v } }.fwMark 8 0x056),
         (a 0x05E, { u with ss := { x with imgRep := v } }.fwMark 8 0x05E), (a 0x064, { u with ss := { x with wramCnt := v } }.fwMark 8 0x064),
         (a 0x07A, { u with ss := { x with elogOvf := v } }.fwMark 8 0x07A)] ∧
      (kept → storesTo r v s [(a 0x022, u)]) ∧
      (¬ kept → storesTo r v s [(a 0x022, { u with ss := { x with ring := tput 0 x.ring ring (v.setWidth 13) } })]) ∧
      readsAs r u
        [(a 0x000, n), (a 0x004, st.rbase.toNat), (a 0x006, st.rlen.toNat), (a 0x01A, st.drop.toNat), (a 0x020, ring),
         (a 0x022, (tget 0 x.ring ring).toNat), (a 0x032, x.lease.tmo.toNat), (a 0x038, x.freePage.toNat), (a 0x042, x.fltIe.toNat),
         (a 0x044, x.freeReason.toNat), (a 0x046, x.freeFpage.toNat), (a 0x048, x.freeFcnt.toNat), (a 0x056, x.scrubSkip.toNat),
         (a 0x05E, x.imgRep.toNat), (a 0x064, x.wramCnt.toNat), (a 0x07A, x.elogOvf.toNat)])

/-- SS_ALLOC takes the lowest FREE page for the lease's holder, before a slice that borrows in the same cycle; SS_FREE makes its checks, SS_RETIRE retires. -/
def Obligations.PagesAreAllocatedFreedAndRetired : Prop :=
  (∀ (k : Fin 4) (v : Word) (s : State), keeperActs s k = true →
    let u := drainAll s k
    let mine := u.ss.lease.held = true ∧ u.ss.lease.owner = k
    let grp := v.toNat / 256 % 8
    let tag : BitVec 8 := v.setWidth 8
    let lent (p : Nat) : Prop := s.integ.memSlice = some p ∧ s.integ.memSliceAt = s.cyc
    let ok (p : Nat) : Prop := 16 ≤ p ∧ p < nPages s ∧ ((u.page p).st = .free ∨ lent p) ∧ (4 ≤ grp ∨ p % nBanks s % 4 = grp)
    let answers (w : Word) : Prop := exec (.ssAlloc k v) s = .next (u.setKeeper k { u.keeper k with allocNext := some w })
    ((u.keeper k).allocNext ≠ none → exec (.ssAlloc k v) s = .next u) ∧
    ((u.keeper k).allocNext = none →
      (¬ mine → answers 0x6000) ∧ (mine → tag = 0 → answers 0x8000) ∧
      (mine → tag ≠ 0 → (∀ p, ¬ ok p) → answers 0x4000) ∧
      (∀ p, mine → tag ≠ 0 → ok p → (∀ q, q < p → ¬ ok q) → lent p →
        ∃ t, exec (.ssAlloc k v) s = .next t ∧ t.page p = ⟨.allocated, tag⟩ ∧
          (t.keeper k).allocNext = some (BitVec.ofNat 16 p) ∧ t.integ.memSlice ≠ some p ∧
          (∀ q, t.integ.memSlice = some q → (u.page q).st = .free ∧ t.page q = ⟨.borrowed, 0⟩) ∧
          (t.integ.memSlice = none → ∀ q, 16 ≤ q → q < nPages s → q ≠ p → (u.page q).st ≠ .free)) ∧
      (∀ p, mine → tag ≠ 0 → ok p → (∀ q, q < p → ¬ ok q) → ¬ lent p →
        exec (.ssAlloc k v) s = .next ((u.setPage p ⟨.allocated, tag⟩).setKeeper k { u.keeper k with allocNext := some (BitVec.ofNat 16 p) }))) ∧
    (let p := u.ss.freePage.toNat
     let pg := u.page p
     let inRing := ∃ e ∈ u.ss.streams, (e.2.armed = true ∨ e.2.checking = true) ∧ p ∈ ringPages u e.2
     let reason : Nat := if ¬ mine then 5 else if pg.st = .absent ∨ pg.st = .locket ∨ pg.st = .retired then 4
       else if pg.st ≠ .allocated ∧ pg.st ≠ .retirePending then 1 else if pg.tag ≠ tag then 2 else 0
     (reason = 0 → ¬ inRing → exec (.ssFree k v) s =
       .next (u.setPage p ⟨if pg.st = .retirePending then .retired else .free, 0⟩)) ∧
     (∀ c, reason ≠ 0 ∧ c = reason ∨ reason = 0 ∧ inRing ∧ c = 3 → exec (.ssFree k v) s = .next { u with ss := { u.ss with
       flt := u.ss.flt ||| 1, freeFcnt := bump u 8 0x048 u.ss.freeFcnt 1,
       freeReason := if bitAt u.ss.flt 0 then u.ss.freeReason else BitVec.ofNat 3 c,
       freeFpage := if bitAt u.ss.flt 0 then u.ss.freeFpage else u.ss.freePage } }))) ∧
  (∀ (k : Fin 4) (s : State),
    (∀ w, busRuns s = true → (s.keeper k).allocNext = some w →
      exec (.ssAllocResult k) s = .next (s.setKeeper k { s.keeper k with allocRes := w, allocNext := none })) ∧
    (busRuns s = false ∨ (s.keeper k).allocNext = none → exec (.ssAllocResult k) s = .next s)) ∧
  (∀ (r : Req) (v : Word) (s : State), mayWrite s r = true →
    let u := reqWaits s r
    let p := v.toNat % 8192
    ((u.page p).st = .free → exec (.ssRetire r v) s = .next (u.setPage p ⟨.retired, 0⟩)) ∧
    ((u.page p).st = .allocated → exec (.ssRetire r v) s = .next (u.setPage p ⟨.retirePending, (u.page p).tag⟩)) ∧
    ((u.page p).st ≠ .free → (u.page p).st ≠ .allocated → exec (.ssRetire r v) s = .next u))

/-- The scrubbers read in order, pass a page that is BORROWED when they come to it, log what is poisoned and repair nothing; a lap ends with its time; clearing the error log. -/
def Obligations.ScrubbersReadAndLapsEnd : Prop :=
  (∀ (g : Fin 4) (s : State),
    let pos := tget 0 s.ss.scrubPos g
    let page := 4 * (pos / 2048) + g.val
    let word := page * 2048 + pos % 2048
    let idle := busRuns s = true ∧ (s.agrp g).grant = none ∧ (s.agrp g).susp = none ∧ (∀ p, p < 12 → arbWants s (s.agrp g) p = false)
    let reads := idle ∧ s.ss.scrubEn = true ∧ pos < nPages s / 4 * 2048
    (¬ reads → exec (.scrubRead g) s = .next s) ∧
    let passes := pos % 2048 = 0 ∧ (s.page page).st = .borrowed
    (reads → passes → exec (.scrubRead g) s = .next { s with ss := { s.ss with
      scrubPos := tput 0 s.ss.scrubPos g ((pos / 2048 + 1) * 2048), scrubSkip := bump s 8 0x056 s.ss.scrubSkip 1 } }) ∧
    (reads → ¬ passes → ∃ t, exec (.scrubRead g) s = .next t ∧
      t.ss.scrubPos = tput 0 s.ss.scrubPos g (pos + 1) ∧
      (let row := pos % 2048 / 512 + page / nBanks s * 4
       let same (e : ElogEntry) : Bool := e.bank == page % nBanks s && e.row == row
       let hit := storePois s word = true ∧ bitAt s.arb.block 9 = false ∧ bitAt s.was.arb.block 9 = false
       (¬ hit → t.ss.elog = s.ss.elog ∧ t.ss.flt = s.ss.flt ∧ t.ss.elogOvf = s.ss.elogOvf) ∧
       (hit → s.ss.elog.any same = true → t.ss.flt = s.ss.flt ∧ t.ss.elogOvf = s.ss.elogOvf ∧
         t.ss.elog = s.ss.elog.map (fun e => if same e then { e with count := satAdd e.count 1 } else e)) ∧
       (hit → s.ss.elog.any same = false → s.ss.elog.length < 64 → t.ss.elogOvf = s.ss.elogOvf ∧
         t.ss.elog = s.ss.elog ++ [⟨page, page % nBanks s, row, 1⟩] ∧ t.ss.flt = s.ss.flt ||| 4) ∧
       (hit → s.ss.elog.any same = false → 64 ≤ s.ss.elog.length →
         t.ss.elog = s.ss.elog ∧ t.ss.elogOvf = bump s 8 0x07A s.ss.elogOvf 1 ∧ t.ss.flt = s.ss.flt ||| 8)) ∧
      t = { s with ss := { s.ss with scrubPos := t.ss.scrubPos, elog := t.ss.elog, elogOvf := t.ss.elogOvf, flt := t.ss.flt } })) ∧
  (∀ s : State,
    let past := busRuns s = true ∧ s.ss.scrubEn = true ∧ ∀ g, g < 4 → nPages s / 4 * 2048 ≤ tget 0 s.ss.scrubPos g
    (¬ past → exec .scrubLapEnd s = .next s) ∧
    (past → exec .scrubLapEnd s = .next { s with ss := { s.ss with
      scrubPos := [], scrubStart := s.now, scrubLap := BitVec.ofNat 32 (min ((s.now - s.ss.scrubStart) / 98304) (2 ^ 32 - 1)) } })) ∧
  (∀ (r : Req) (v : Word) (s : State), mayWrite s r = true →
    let u := reqWaits s r
    let on := bitAt v 0
    exec (.ssScrubCtrlWrite r v) s = .next { u with ss := { u.ss with
      scrubEn := on, scrubPos := if on = u.ss.scrubEn then u.ss.scrubPos else [],
      scrubStart := if on = u.ss.scrubEn then u.ss.scrubStart else s.now } } ∧
    exec (.ssElogClr r v) s = .next (if on then { u with ss := { u.ss with elog := [], elogOvf := 0 } } else u))

/-- The image scrubber queues poisoned words for refetch; a refetch rewrites the word from the loaded slot or from zero, or is reported
where the read fails or the word still reads poisoned. -/
def Obligations.ImageWordsAreScrubbedAndRefetched : Prop :=
  (∀ s : State,
    let u := passBus s (s.ss.iscrubAt + (s.ss.iscrubRate.toNat + 1) * 64)
    let w := s.ss.iscrubPos
    (busRuns s = false ∨ s.ss.iscrubEn = false → exec .imageScrubRead s = .next s) ∧
    (busRuns s = true → s.ss.iscrubEn = true → exec .imageScrubRead s = .next { u with ss := { s.ss with
      iscrubAt := u.cyc, iscrubPos := (w + 1) % 49152,
      refetches := if badLE .iram s (4 * w) 4 = true ∧ w ∉ s.ss.refetches then s.ss.refetches ++ [w] else s.ss.refetches } })) ∧
  (∀ (o : RefetchEnd) (s : State),
    let runs := s.pwr.st ≠ .sleep ∧ s.rst.porHeld = false
    ((¬ runs ∨ s.ss.refetches = []) → exec (.imageRefetch o) s = .next s) ∧
    (∀ w rest, runs → s.ss.refetches = w :: rest →
      let a := 4 * w
      let src := a + (if s.img.slot = 2 then 0x30000 else 0)
      let failed := ∃ e, o = .failed e ∧ a < s.img.len.toNat
      (∀ e, o = .failed e → a < s.img.len.toNat → exec (.imageRefetch o) s = .next { s with
        ss := { s.ss with refetches := rest, flt := s.ss.flt ||| 0x20, imgAddr := BitVec.ofNat 18 a },
        img := { s.img with flt := s.img.flt ||| (if e = .noack then 4 else 8), faddr := BitVec.ofNat 19 src } }) ∧
      (¬ failed → ∃ t, exec (.imageRefetch o) s = .next t ∧
        (∀ i, i < 4 → getByte .iram t (a + i) = (if a < s.img.len.toNat then eepByte s (src + i) else 0) ∧
          badByte .iram t (a + i) = decide (o = .poisoned)) ∧
        (∀ b, b < a ∨ a + 4 ≤ b → getByte .iram t b = getByte .iram s b ∧ badByte .iram t b = badByte .iram s b) ∧
        t = { s with iram := t.iram, iramBad := t.iramBad, ss :=
          if o = .poisoned then { s.ss with refetches := rest, flt := s.ss.flt ||| 0x20, imgAddr := BitVec.ofNat 18 a }
          else { s.ss with refetches := rest, flt := s.ss.flt ||| 0x10, imgRep := bump s 8 0x05E s.ss.imgRep 1 } }))) ∧
  (∀ (r : Req) (v : Word) (s : State), mayWrite s r = true →
    let u := reqWaits s r
    exec (.ssIscrubWrite r v) s =
      .next { u with ss := { u.ss with iscrubEn := bitAt v 15, iscrubRate := v.setWidth 8, iscrubAt := s.cyc } })

/-- A complete record is written whole within a page behind HEAD, or discarded and owed as a GAP, by each of the three writers; the
engine's records wait for its fetches. -/
def Obligations.RecordsAreWrittenWholeOrDiscarded : Prop :=
  let takes (st : Stream) (ord : Nat) : Prop := if st.armed = true then st.armOrd ≤ ord else st.lastOrd = some ord
  let blocked (s : State) (p : Nat) : Bool := bitAt s.arb.block p || bitAt s.was.arb.block p
  (∀ (n : Fin 256) (s : State),
    ((busRuns s = false ∨ s.ss.ready.find? (fun r => r.stream == n) = none) → exec (.streamRecordWrite n) s = .next s) ∧
    (∀ r, busRuns s = true → s.ss.ready.find? (fun x => x.stream == n) = some r →
      let kept := s.ss.ready.filter (fun x => x.ord != r.ord)
      (earlierWaits s n r.ord = true → exec (.streamRecordWrite n) s = .next s) ∧
      (earlierWaits s n r.ord = false → ¬ takes (s.strm n) r.ord →
        exec (.streamRecordWrite n) s = .next { s with ss := { s.ss with ready := kept } }) ∧
      (earlierWaits s n r.ord = false → takes (s.strm n) r.ord → r.gaps = [] → (∀ g ∈ (s.strm n).gaps, g.port ≠ 0) →
        1 ≤ r.words.length → r.words.length ≤ 2048 →
        ∃ t, exec (.streamRecordWrite n) s = .next t ∧
          recordWritten s t 0 (!s.pwr.port11 && blocked s 0) n r.e r.words ∧
          t = { s with store := t.store, storeBad := t.storeBad,
                       ss := { s.ss with ready := kept, streams := t.ss.streams, fetches := t.ss.fetches, ord := t.ss.ord } }))) ∧
  (∀ s : State,
    ((busRuns s = false ∨ s.ce.wq = [] ∨ s.ss.fetches ≠ []) → exec .charmRecordWrite s = .next s) ∧
    (∀ r rest, busRuns s = true → s.ss.fetches = [] → s.ce.wq = r :: rest →
      let st := s.strm r.stream
      let takes := takes st r.ord ∧ st.kind = (if (nth 0 r.words 0).extractLsb' 12 4 = 6#4 then 3 else 4)
      (¬ takes → exec .charmRecordWrite s =
        .next { s with ce := { s.ce with wq := rest, wqDrop := bump s 11 0x00E s.ce.wqDrop 1, flt := s.ce.flt ||| 0x40 } }) ∧
      (takes → earlierWaits s r.stream r.ord = true → exec .charmRecordWrite s = .next s) ∧
      (takes → earlierWaits s r.stream r.ord = false → r.gaps = [] → (∀ g ∈ st.gaps, g.port ≠ 1) →
        1 ≤ r.words.length → r.words.length ≤ 2048 →
        ∃ t, exec .charmRecordWrite s = .next t ∧ recordWritten s t 1 (blocked s 1) r.stream r.e r.words ∧
          t = { s with store := t.store, storeBad := t.storeBad, ce := { s.ce with wq := rest },
                       ss := { s.ss with streams := t.ss.streams, fetches := t.ss.fetches, ord := t.ss.ord } }))) ∧
  (∀ s : State,
    ((busRuns s = false ∨ firstFrame s = none) → exec .frameRecordWrite s = .next s) ∧
    (∀ n f, busRuns s = true → firstFrame s = some (n, f) →
      let p := s.port n
      let sn : Fin 256 := ⟨p.stream.toNat, p.stream.isLt⟩
      let st := s.strm sn
      let words := frameRecord n f
      (¬ (takes st f.ord ∧ st.kind = 3) → ∃ t, exec .frameRecordWrite s = .next t ∧
        t.port n = { p with done := p.done.drop 1, stat := p.stat ||| 0x10 } ∧ (∀ m, m ≠ n → t.port m = s.port m) ∧
        t = { s with io := { s.io with ports := t.io.ports } }) ∧
      (takes st f.ord → st.kind = 3 → earlierWaits s sn f.ord = true → exec .frameRecordWrite s = .next s) ∧
      (takes st f.ord → st.kind = 3 → earlierWaits s sn f.ord = false → (∀ g ∈ st.gaps, g.port ≠ 8) → f.bytes.length ≤ 512 →
        ∃ t, exec .frameRecordWrite s = .next t ∧ recordWritten s t 8 (blocked s 8) sn f.e words ∧
          t.port n = (if (t.strm sn).head = st.head then { p with done := p.done.drop 1 }
                      else { p with done := p.done.drop 1, stat := p.stat ||| 1, frames := if s.fwWrote 14 (0x114 + 0x40 * n) then p.frames else p.frames + 1, lastTs := f.e % 2 ^ 48 }) ∧
          (∀ m, m ≠ n → t.port m = s.port m) ∧
          t = { s with store := t.store, storeBad := t.storeBad, io := { s.io with ports := t.io.ports },
                       ss := { s.ss with streams := t.ss.streams, fetches := t.ss.fetches, ord := t.ss.ord } })))

/-- Requests are raised, served at once, pre-empted and granted in the arbiter's order; hints drop the readout ports' requests, which are
raised again; withdrawn grants and resumed bursts. -/
def Obligations.ArbiterRaisesAndGrantsInOrder : Prop :=
  ∀ (g : Fin 4) (s : State),
    let a := s.agrp g
    let limit := max 17 s.arb.holdMax.toNat
    let dropIf (x : State) (h : Nat) : State :=
      let b := x.agrp g
      match arbReq x b h with
      | some q => if max 17 s.arb.hintThr.toNat < hintEst x b h ∧ arbInBurst b h = false then
          x.setAgrp g { b with reqs := tput none b.reqs h none, dropped := tput none b.dropped h (some (q, x.cyc + (hintEst x b h - 17))) }
        else x
      | none => x
    let hints (x : State) : State := dropIf (dropIf x 6) 7
    let normal (p : Nat) : Prop := 2 ≤ p ∧ p ≤ 10 ∧ p ≠ 9
    let readout (p : Nat) : Prop := p = 6 ∨ p = 7
    let resumes (x : State) (b : Burst) : State := x.setAgrp g { a with
      grant := some { b with hold1 := b.hold1 + (a.freeAt - 1 - b.start), start := a.freeAt, cycle := false }, parked := false,
      owner := b.owner, susp := none }
    let atOnce (q : ArbRequest) (p c : Nat) (x : ArbGroup) : ArbGroup := { x with
      grant := some ⟨p, q.len, c + q.waits.headD 0, c + q.waits.headD 0, limit, false⟩, parked := false, owner := p }
    (∀ (p : Fin 12) (q : ArbRequest),
      let raised := { a with reqs := tput none a.reqs p (some ⟨q, s.cyc⟩) }
      let may := requestOk q = true ∧ busRuns s = true ∧ q.page.val < nPages s ∧ q.page.val % 4 = g.val ∧ arbReq s a p = none ∧
        ¬ ((p.val = 4 ∨ p.val = 5) ∧ nKeepers s = 2) ∧ (p.val = 11 → s.pwr.port11 = true)
      let back (b : Burst) := a.susp = some b ∧ a.grant = none ∧ arbReq s a 11 = none ∧ a.freeAt ≤ s.cyc
      let settles := may ∧ ∀ b, ¬ back b
      let quick := a.parked = true ∧ a.owner = p.val ∧ a.grant = none ∧ a.susp = none ∧
        ∀ h, h < 12 → h ≠ p.val → arbWants s raised h = false
      (requestOk q = false → exec (.arbiterRequest g p q) s = .refused (.illFormed "ARBITER_REQUEST")) ∧
      (requestOk q = true → ¬ may → exec (.arbiterRequest g p q) s = .next s) ∧
      (∀ b, may → back b → exec (.arbiterRequest g p q) s = exec (.arbiterRequest g p q) (resumes s b)) ∧
      (settles → p.val ≠ 11 →
        (portBlocked s p = true → exec (.arbiterRequest g p q) s = .next (s.setAgrp g raised)) ∧
        (portBlocked s p = false → quick →
          exec (.arbiterRequest g p q) s = .next (s.setAgrp g (atOnce q p (max s.cyc a.freeAt) raised))) ∧
        (portBlocked s p = false → ¬ quick → exec (.arbiterRequest g p q) s = .next (hints (s.setAgrp g
          (if parkedNow s raised then { raised with grant := none, parked := true } else raised))))) ∧
      (settles → p.val = 11 →
        (a.grant = none → exec (.arbiterRequest g p q) s = .next (hints (s.setAgrp g
          (if a.susp ≠ none ∨ (a.parked = true ∧ a.owner = 11) then atOnce q 11 (max s.cyc a.freeAt) raised else raised)))) ∧
        (∀ b, a.grant = some b → b.owner ≠ 11 →
          let x := grantReq raised b
          let n := movedBy b x s.cyc
          let put := moveWords s x (x.len - b.left) n
          exec (.arbiterRequest g p q) s = .next (hints (put.setAgrp g (atOnce q 11 (s.cyc + 2)
            (if n = b.left then { raised with grant := none, reqs := tput none raised.reqs b.owner none }
             else { raised with susp := some { b with left := b.left - n, start := s.cyc } })))))) ∧
      (¬ readout p → exec (.hintRerequest g p) s = .refused (.illFormed "HINT_REREQUEST")) ∧
      (readout p → tget none a.dropped p = none ∨ busRuns s = false → exec (.hintRerequest g p) s = .next s) ∧
      (∀ at_, readout p → busRuns s = true → requestOk q = true → tget none a.dropped p = some (q, at_) →
        exec (.hintRerequest g p) s =
          exec (.arbiterRequest g p q) ((passBus s at_).setAgrp g { a with dropped := tput none a.dropped p none }))) ∧
    (let u := passBus s a.freeAt
     let want (p : Nat) : Prop := arbWants u a p = true
     let order (p : Nat) (x : ArbGroup) : Prop :=
       p < 12 ∧ want p ∧ (want 11 → p = 11) ∧ (p = 9 → ∀ h, h < 12 → h ≠ 9 → ¬ want h) ∧
       (p < 2 → (a.lastClassHigh = true → ∀ h, normal h → ¬ want h) ∧ (want 0 → want 1 → p = if a.lastHigh = 0 then 1 else 0) ∧
         x = { a with lastHigh := p, lastClassHigh := true }) ∧
       (normal p → (a.lastClassHigh = false → ¬ want 0 ∧ ¬ want 1) ∧
         (∀ h, normal h → want h → (a.lastNormal < h ↔ a.lastNormal < p) → p ≤ h) ∧
         (p ≤ a.lastNormal → ∀ h, normal h → want h → h ≤ a.lastNormal) ∧ x = { a with lastNormal := p, lastClassHigh := false }) ∧
       (p = 9 ∨ p = 11 → x = a)
     (a.grant ≠ none ∨ busRuns s = false → exec (.arbiterGrant g) s = .next s) ∧
     (busRuns s = true → a.grant = none →
       (∀ b, a.susp = some b → exec (.arbiterGrant g) s =
         .next (if arbReq u a 11 = none ∧ a.freeAt ≤ u.cyc then resumes u b else u.setAgrp g a)) ∧
       (a.susp = none → (∀ p, p < 12 → ¬ want p) → exec (.arbiterGrant g) s = .next u) ∧
       (a.susp = none → (∃ p, p < 12 ∧ want p) → ∃ p q x, order p x ∧ arbReq u a p = some q ∧
         exec (.arbiterGrant g) s = .next (hints (u.setAgrp g { x with
           grant := some ⟨p, q.len, u.cyc, u.cyc + 1 + q.waits.headD 0, limit, true⟩, parked := false, owner := p }))))) ∧
    (∀ b, busRuns s = true → a.grant = some b →
      let u := passBus s (b.hold1 + 1)
      (b.cycle = true → u.cyc ≤ b.start → exec (.grantWithdrawn g) s = .next (u.setAgrp g { a with
        grant := none, parked := false, reqs := tput none a.reqs b.owner none, freeAt := u.cyc + 1 })) ∧
      (b.cycle = true → b.start < u.cyc → exec (.grantWithdrawn g) s = .next u) ∧
      (b.cycle = false → exec (.grantWithdrawn g) s = .next s)) ∧
    (busRuns s = false ∨ a.grant = none → exec (.grantWithdrawn g) s = .next s) ∧
    (∀ b, busRuns s = true → a.susp = some b → a.grant = none →
      let u := passBus s a.freeAt
      exec (.burstResume g) s = .next (if arbReq u a 11 = none ∧ a.freeAt ≤ u.cyc then resumes u b else u.setAgrp g a)) ∧
    (busRuns s = false ∨ a.susp = none ∨ a.grant ≠ none → exec (.burstResume g) s = .next s)

/-- A burst within its hold limit moves its words, one a cycle after their wait cycles; past it the port is cut off and blocked; a blocked
port's request is refused; the ARB_ settings. -/
def Obligations.BurstsMoveOrAreCutOff : Prop :=
  (∀ (c n i : Nat) (ws : List Nat), i < n → (wordCycles c n ws)[i]? = some (c + i + (ws.take i).sum)) ∧
  (∀ (g : Fin 4) (s : State),
    let a := s.agrp g
    let word (q : ArbRequest) (i : Nat) : Nat := q.page.val * 2048 + q.start.val + i
    let moved (t : State) (q : ArbRequest) (i n : Nat) : Prop :=
      (q.write = true → ∀ j, i ≤ j → j < i + n → storeWord t (word q j) = nth 0 q.data j ∧ storePois t (word q j) = false) ∧
      (∀ w, (q.write = false ∨ w < word q i ∨ word q (i + n) ≤ w) → storeWord t w = storeWord s w ∧ storePois t w = storePois s w)
    let unit (s t : State) (p : Nat) (q : ArbRequest) : Prop :=
      (∀ k, k < 4 → p = 2 + k → (s.keeper k).run = true → (s.keeper k).inTrap = false →
        (t.keeper k).inTrap = true ∧ (t.keeper k).mcause = (if q.write then 7 else 5) ∧ (t.keeper k).mepc = (s.keeper k).pc ∧
        (t.keeper k).mtval = BitVec.ofNat 32 (0x20000000 + 2 * word q 0)) ∧
      (p = 9 → s.ss.scrubEn = true → tget 0 s.ss.scrubPos g < nPages s / 4 * 2048 →
        tget 0 t.ss.scrubPos g = tget 0 s.ss.scrubPos g + 1) ∧
      (∀ page, p = 10 → s.integ.memSlice = some page → t.integ.memSlice = none ∧ t.page page = ⟨.free, 0⟩ ∧ bitAt t.integ.flt 5 = true)
    (∀ (b : Burst) (x : Raised), busRuns s = true → a.grant = some b → tget none a.reqs b.owner = some x → requestOk x.q = true →
      b.left ≤ x.q.len →
      let q := x.q
      let inLimit := b.owner = 11 ∨ lastCycle b q < b.hold1 + b.holdMax
      (inLimit →
        let u := passBus s (lastCycle b q)
        ∃ t, exec (.burstComplete g) s = .next t ∧ moved t q (q.len - b.left) b.left ∧
          t.agrp g = { a with grant := none, reqs := tput none a.reqs b.owner none, freeAt := lastCycle b q + 1, parked := (t.agrp g).parked } ∧
          ((t.agrp g).parked = true ↔ a.susp = none ∧ ∀ p, p < 12 → p ≠ b.owner → arbWants u a p = false) ∧
          (∀ h, h ≠ g.val → t.agrp h = s.agrp h) ∧
          t = { u with store := t.store, storeBad := t.storeBad, arb := { s.arb with groups := t.arb.groups },
                       ss := { s.ss with elog := t.ss.elog, elogOvf := t.ss.elogOvf, flt := t.ss.flt } }) ∧
      (¬ inLimit →
        let ends := b.hold1 + b.holdMax
        let u := passBus s ends
        let n := movedBy b q (ends - 1)
        exec (.burstComplete g) s = .next s ∧
        (∀ m, m ≠ q.len - b.left + n → exec (.holdCutoff g m) s = .next s) ∧
        ∃ t, exec (.holdCutoff g (q.len - b.left + n)) s = .next t ∧
          (b.owner ≠ 0 → b.owner ≠ 1 → b.owner ≠ 8 → b.owner ≠ 10 → moved t q (q.len - b.left) n) ∧ unit u t b.owner q ∧
          t.agrp g = { a with
            grant := none, parked := false, reqs := tput none a.reqs b.owner none, freeAt := ends, cutValid := true,
            cutPort := if a.cutValid then a.cutPort else BitVec.ofNat 4 b.owner,
            cutLeft := if a.cutValid then a.cutLeft else BitVec.ofNat 5 (b.left - n) } ∧
          (∀ h, h < 4 → h ≠ g.val → t.agrp h = raisedNow u (s.agrp h) b.owner) ∧
          t.arb = { s.arb with groups := t.arb.groups, block := s.arb.block ||| (1#11 <<< b.owner),
                               cutCnt := bump u 9 0x00A s.arb.cutCnt 1 }) ∧
      (inLimit → ∀ m, exec (.holdCutoff g m) s = .next s)) ∧
    (busRuns s = false ∨ a.grant = none → exec (.burstComplete g) s = .next s ∧ ∀ m, exec (.holdCutoff g m) s = .next s) ∧
    (∀ p : Fin 12,
      let waits := busRuns s = true ∧ p.val < 11 ∧ portBlocked s p = true ∧ arbInBurst a p = false
      (¬ waits ∨ arbRaised s a p = none → exec (.requestRefused g p) s = .next s) ∧
      (∀ x, waits → arbRaised s a p = some x →
        let u := passBus s (x.at_ + 1)
        let still := portBlocked u p = true ∧ (arbRaised u a p).isSome = true
        (¬ still → exec (.requestRefused g p) s = .next u) ∧
        (still → ∃ t, exec (.requestRefused g p) s = .next t ∧ t.agrp g = { a with reqs := tput none a.reqs p none } ∧
          unit u t p x.q ∧ t.arb = { s.arb with groups := t.arb.groups })))) ∧
  (∀ (r : Req) (v : Word) (s : State), mayWrite s r = true →
    let u := reqWaits s r
    let b := u.arb
    let quiet := ∀ g, g < 4 → arbReq u (u.agrp g) 6 = none ∧ arbReq u (u.agrp g) 7 = none
    exec (.arbBlockClear r v) s = .next { u with arb := { b with block := cleared b.block s.was.arb.block v } } ∧
    (quiet → storesTo r v s
      [(0x40009000, { u with arb := { b with hint6 := bitAt v 0, hint7 := bitAt v 1 } }),
       (0x40009008, { u with arb := { b with hintThr := v.setWidth 10 } })]) ∧
    storesTo r v s
      [(0x40009002, { u with arb := { b with holdMax := v.setWidth 10 } }), (0x40009006, { u with arb := { b with cutIe := v.setWidth 11 } }),
       (0x4000900A, { u with arb := { b with cutCnt := v } }.fwMark 9 0x00A)] ∧
    (∀ g : Fin 4, storesTo r v s [(BitVec.ofNat 32 (0x40009108 + 0x20 * g.val), u.setAgrp g { u.agrp g with
      cutValid := (u.agrp g).cutValid && !(bitAt v 15 && ((tget {} s.was.arb.groups g) : ArbGroup).cutValid) })]) ∧
    readsAs r u [(0x40009002, b.holdMax.toNat), (0x40009004, b.block.toNat), (0x40009006, b.cutIe.toNat), (0x40009008, b.hintThr.toNat),
                 (0x4000900A, b.cutCnt.toNat)])

/-- A recognizer decision that is due changes the pod's state and queues its event, classified as tap, double tap or footstep; the
queue drains to streams by the parameters in force; the RC_ registers store and read by their fields. -/
def Obligations.RecognizerDecisionsAreCarriedOut : Prop :=
  (∀ (p : Fin 32) (d : RcDue) (rest : List RcDue) (s : State), busRuns s = true → (∀ j, j < p.val → (s.pod j).dues = []) →
    (s.pod p).dues = d :: rest →
    let pd := s.pod p
    let q := pd.inForce
    let frame (t : State) : Prop := (∀ j, j ≠ p.val → t.pod j = s.pod j) ∧
      t = { s with rc := { s.rc with pods := t.rc.pods, queue := t.rc.queue, qovf := t.rc.qovf, flt := t.rc.flt, unclass := t.rc.unclass } }
    let becomes (t : State) (x : Pod) : Prop := t.pod p = { x with evCnt := (t.pod p).evCnt }
    let passed (x : Pod) : Prop := ∃ l, x.lastCounted = some l ∧ q.fsImax.toNat < pd.now - l
    let then_ (t : State) (x : Pod) : Prop :=
      (passed x → RcDue.stepsEnd ∉ rest → becomes t { x with dues := .stepsEnd :: rest }) ∧
      (¬ passed x ∨ RcDue.stepsEnd ∈ rest → becomes t { x with dues := rest })
    let quiet (t : State) : Prop := frame t ∧ t.rc.queue = s.rc.queue ∧ t.rc.qovf = s.rc.qovf ∧ t.rc.flt = s.rc.flt ∧ (t.pod p).evCnt = pd.evCnt
    let event (t : State) (code : Byte) (a b : Nat) : Prop := frame t ∧
      (s.rc.queue.length < 64 → t.rc.qovf = s.rc.qovf ∧ t.rc.flt = s.rc.flt ∧
        (t.pod p).evCnt = (if s.fwWrote 10 (0x136 + 0x40 * p.val) then pd.evCnt else pd.evCnt + 1) ∧
        t.rc.queue = s.rc.queue ++ [⟨p, code, pd.now * 128 % 2 ^ 52, BitVec.ofNat 16 a, BitVec.ofNat 16 b⟩]) ∧
      (64 ≤ s.rc.queue.length → t.rc.queue = s.rc.queue ∧ t.rc.qovf = bump s 10 0x004 s.rc.qovf 1 ∧ t.rc.flt = s.rc.flt ||| 1 ∧
        (t.pod p).evCnt = pd.evCnt)
    let same (t : State) : Prop := t.rc.unclass = s.rc.unclass
    let seconds := min 65535 ((pd.now - pd.firstCounted) / 64)
    let noCount (x : Pod) : Pod := { x with count := 0, lastCounted := none, train := false }
    (d = .settlingEnd → ∃ t, exec (.settlingEnd p) s = .next t ∧ quiet t ∧ same t ∧ becomes t { pd with dues := rest, settleEnd := none }) ∧
    (d = .blockedEnd → ∃ t, exec (.blockedEnd p) s = .next t ∧ quiet t ∧ same t ∧ becomes t { pd with dues := rest, det := .idle }) ∧
    (∀ k, d = .long k → ∃ t, exec (.long p) s = .next t ∧ event t 0x30 k 4095 ∧ same t ∧ then_ t { pd with det := .blocked 0 }) ∧
    (d = .stepsEnd → ∃ t, exec (.stepsEnd p) s = .next t ∧ same t ∧ becomes t (noCount { pd with dues := rest }) ∧
      (pd.train = true → event t 0x12 pd.count seconds) ∧ (pd.train = false → quiet t)) ∧
    (d = .fall → ∃ t, exec (.fall p) s = .next t ∧ event t 0x20 pd.ffLow 0 ∧ same t ∧ becomes t { pd with dues := rest, falling := true }) ∧
    (∀ f, d = .fallEnd f → ∃ u, rcNext s p = u ∧ event u 0x21 (min 65535 pd.ffRun) f ∧ same u ∧
      becomes u { pd with dues := rest, falling := false, ffRun := 0 } ∧
      (∀ x g l, rest = .tip x g :: l → exec (.tip p) s = exec (.tip p) u) ∧
      (∀ g l, rest = .tipClear g :: l → exec (.tipClear p) s = exec (.tipClear p) u)) ∧
    (∀ x g, d = .tip x g → ∃ t, exec (.tip p) s = .next t ∧ event t 0x22 x g ∧ same t ∧
      becomes t { pd with dues := rest, tipped := true, tipRun := 0 }) ∧
    (∀ g, d = .tipClear g → ∃ t, exec (.tipClear p) s = .next t ∧ event t 0x23 0 g ∧ same t ∧
      becomes t { pd with dues := rest, tipped := false, tipRun := 0 }) ∧
    (∀ i k e n, d = .impulseEnd → pd.det = .active i k e n →
      ∃ t, exec (.impulseEnd p) s = .next t ∧
        let w := e - i + 1
        let x : Pod := { pd with det := .idle }
        let isTap := q.tapEn = true ∧ q.tapPeak.toNat ≤ k ∧ w ≤ q.tapWmax.toNat ∧ ¬ (q.fsSupp = true ∧ pd.train = true)
        let isStep := q.fsEn = true ∧ q.fsPeak.toNat ≤ k ∧ q.fsWmin.toNat ≤ w ∧ w ≤ q.fsWmax.toNat
        let second (r : Nat) : Prop := q.dtEn = true ∧ q.dtGmin.toNat ≤ i - r ∧ i - r ≤ q.dtGmax.toNat
        (isTap → same t ∧
          (∀ r, pd.refTap = some r → second r → event t 0x02 k (i - r) ∧ then_ t { x with refTap := none }) ∧
          ((∀ r, pd.refTap = some r → ¬ second r) → event t 0x01 k w ∧ then_ t { x with refTap := some i })) ∧
        (¬ isTap → isStep → same t ∧
          (pd.lastCounted = none → quiet t ∧ then_ t { x with count := 1, lastCounted := some i, firstCounted := i }) ∧
          (∀ l, pd.lastCounted = some l → i - l ≤ q.fsImax.toNat →
            (i - l < q.fsImin.toNat → quiet t ∧ then_ t x) ∧
            (q.fsImin.toNat ≤ i - l →
              let c := min 255 (pd.count + 1)
              let starts := pd.train = false ∧ max 2 q.fsCount.toNat ≤ c
              then_ t { x with count := c, lastCounted := some i, train := pd.train || decide starts } ∧
              (starts → event t 0x10 c (i - l)) ∧ (pd.train = true → q.fsEach = true → event t 0x11 c (i - l)) ∧
              (¬ starts → (pd.train = false ∨ q.fsEach = false) → quiet t))) ∧
          (∀ l, pd.lastCounted = some l → q.fsImax.toNat < i - l →
            then_ t { x with count := 1, train := false, lastCounted := some i, firstCounted := i } ∧
            (pd.train = true → event t 0x12 pd.count seconds) ∧ (pd.train = false → quiet t))) ∧
        (¬ isTap → ¬ isStep → quiet t ∧ t.rc.unclass = bump s 10 0x006 s.rc.unclass 1 ∧ then_ t x))) ∧
  (∀ (p : Fin 32) (s : State), busRuns s = false ∨ (s.pod p).dues = [] →
    ∀ c ∈ [Instr.settlingEnd p, .impulseEnd p, .blockedEnd p, .long p, .stepsEnd p, .fall p, .tip p, .tipClear p], exec c s = .next s) ∧
  (∀ s : State, (busRuns s = false ∨ s.rc.queue = [] → exec .recognizerEventDrain s = .next s) ∧
    (∀ v rest, busRuns s = true → s.rc.queue = v :: rest → ∃ t, exec .recognizerEventDrain s = .next t ∧
      t.rc = { s.rc with queue := rest, flt := t.rc.flt } ∧ t = { s with rc := t.rc, ce := t.ce, ss := t.ss } ∧
      (let q := (s.pod v.pod).inForce
       let sn : Fin 256 := ⟨q.stream.toNat, q.stream.isLt⟩
       let takes := (s.strm sn).armed = true ∧ (s.strm sn).kind = 4
       let words : List Word := [0x4007, BitVec.ofNat 16 (v.e / 2 ^ 48 % 16 * 4096 + (256 + v.code.toNat)), BitVec.ofNat 16 v.e,
         BitVec.ofNat 16 (v.e / 65536), BitVec.ofNat 16 (v.e / 2 ^ 32), BitVec.ofNat 16 v.pod.val, v.a, v.b]
       (q.ev = false → t.rc.flt = s.rc.flt ∧ t.ce.wq = s.ce.wq) ∧
       (q.ev = true → ¬ takes → t.rc.flt = s.rc.flt ||| 4 ∧ t.ce.wq = s.ce.wq) ∧
       (q.ev = true → takes → t.rc.flt = s.rc.flt ∧ (64 ≤ s.ce.wq.length → t.ce.wq = s.ce.wq) ∧
         (s.ce.wq.length < 64 → t.ce.wq = s.ce.wq ++ [{ stream := sn, e := v.e, words := words, ord := 32 * s.ss.ord }]))))) ∧
  (∀ (r : Req) (p : Fin 32) (v : Word) (s : State), mayWrite s r = true → p.val < nPods s →
    let u := reqWaits s r
    let pd := u.pod p
    exec (.refcap r p v) s = .next (u.setPod p { pd with
      prm := { pd.prm with tipEn := bitAt v 8, sh := v.extractLsb' 0 4 }, refcap := pd.refcap || bitAt v 15 }) ∧
    exec (.rcCfgWrite r p v) s = .next (u.setPod p { pd with prm := { pd.prm with
      en := bitAt v 15, ev := bitAt v 14, tapEn := bitAt v 13, dtEn := bitAt v 12, fsEn := bitAt v 11, fsEach := bitAt v 10,
      fsSupp := bitAt v 9, ffEn := bitAt v 8, stream := v.setWidth 8 } }) ∧
    (let a (o : Nat) : W32 := BitVec.ofNat 32 (0x4000A100 + 0x40 * p.val + o)
     let q := pd.prm
     let put (x : PodParams) : State := u.setPod p { pd with prm := x }
     let t : BitVec 12 := v.setWidth 12
     storesTo r v s
       [(a 0x04, put { q with impOn := t }), (a 0x06, put { q with impOff := t }), (a 0x08, put { q with endQ := t }),
        (a 0x0A, put { q with tapPeak := t }), (a 0x0C, put { q with tapWmax := t }), (a 0x0E, put { q with dtGmin := v }),
        (a 0x10, put { q with dtGmax := v }), (a 0x12, put { q with fsPeak := t }), (a 0x14, put { q with fsWmin := t }),
        (a 0x16, put { q with fsWmax := t }), (a 0x18, put { q with fsImin := v }), (a 0x1A, put { q with fsImax := v }),
        (a 0x1C, put { q with fsCount := v.setWidth 8 }), (a 0x1E, put { q with ffThr := t }), (a 0x20, put { q with ffMin := v }),
        (a 0x22, put { q with tipThr := t }), (a 0x24, put { q with tipMin := v }), (a 0x26, put { q with refX := v }),
        (a 0x28, put { q with refY := v }), (a 0x2A, put { q with refZ := v }),
        (a 0x36, (u.setPod p { pd with evCnt := v }).fwMark 10 (0x136 + 0x40 * p.val))] ∧
     readsAs r u
       [(a 0x00, (if q.en then 32768 else 0) + (if q.ev then 16384 else 0) + (if q.tapEn then 8192 else 0) + (if q.dtEn then 4096 else 0) +
          (if q.fsEn then 2048 else 0) + (if q.fsEach then 1024 else 0) + (if q.fsSupp then 512 else 0) + (if q.ffEn then 256 else 0) +
          q.stream.toNat),
        (a 0x02, (if q.tipEn then 256 else 0) + q.sh.toNat), (a 0x04, q.impOn.toNat), (a 0x06, q.impOff.toNat), (a 0x08, q.endQ.toNat),
        (a 0x0A, q.tapPeak.toNat), (a 0x0C, q.tapWmax.toNat), (a 0x0E, q.dtGmin.toNat), (a 0x10, q.dtGmax.toNat), (a 0x12, q.fsPeak.toNat),
        (a 0x14, q.fsWmin.toNat), (a 0x16, q.fsWmax.toNat), (a 0x18, q.fsImin.toNat), (a 0x1A, q.fsImax.toNat), (a 0x1C, q.fsCount.toNat),
        (a 0x1E, q.ffThr.toNat), (a 0x20, q.ffMin.toNat), (a 0x22, q.tipThr.toNat), (a 0x24, q.tipMin.toNat), (a 0x26, q.refX.toNat),
        (a 0x28, q.refY.toNat), (a 0x2A, q.refZ.toNat), (a 0x36, pd.evCnt.toNat),
        (a 0x2C, (BitVec.ofInt 16 ((pd.bX + 32768) / 65536)).toNat)])) ∧
  (∀ (r : Req) (v : Word) (s : State), mayWrite s r = true →
    let u := reqWaits s r
    storesTo r v s
      [(0x4000A000, { u with rc := { u.rc with flt := cleared u.rc.flt s.was.rc.flt v } }),
       (0x4000A002, { u with rc := { u.rc with fltIe := v.setWidth 3 } }),
       (0x4000A004, { u with rc := { u.rc with qovf := v } }.fwMark 10 4), (0x4000A006, { u with rc := { u.rc with unclass := v } }.fwMark 10 6)] ∧
    readsAs r u [(0x4000A000, u.rc.flt.toNat), (0x4000A002, u.rc.fltIe.toNat), (0x4000A004, u.rc.qovf.toNat), (0x4000A006, u.rc.unclass.toNat)])

/-- Each charm data instruction writes its result and P bit to D, flags what is out of range or absent, and goes to the next word. -/
def Obligations.CharmDataInstructions : Prop :=
  ∀ (l : Fin 2) (s : State) (r : Run) (w : Nat), charmAt s l r w →
    let op := w / 2 ^ 26 % 64
    let D := w / 2 ^ 23 % 8
    let A := w / 2 ^ 20 % 8
    let B := w / 2 ^ 17 % 8
    let imm : Word := BitVec.ofNat 16 w
    let n := w % 2048
    let c := s.chm r.act.inst
    let V (x : Nat) : Word := tget 0 c.v x
    let P (x : Nat) : Bool := bitAt c.p x
    let sat (x : Int) : Word := BitVec.ofInt 16 (if x < -32768 then -32768 else if 32767 < x then 32767 else x)
    let wrote (stat : Byte) (flt : BitVec 12) (v : Word) (p : Bool) : Host.Outcome State Fault Refusal :=
      let t := s.setChm r.act.inst { c with
        stat := c.stat ||| stat, v := tput 0 c.v D v, p := if p then c.p ||| (1#8 <<< D) else c.p &&& ~~~(1#8 <<< D) }
      .next (setLaneRun { t with ce := { t.ce with flt := s.ce.flt ||| flt } } l (some { r with pc := r.pc + 1, steps := r.steps + 1 }))
    let clean := wrote 0 0
    let recWord (j : Nat) : Option MWord := match r.buf with | some ws => ws[j]? | none => none
    let load (j : Nat) : Host.Outcome State Fault Refusal :=
      match recWord j with | some m => clean m.w m.poison | none => wrote 0x10 0x10 0 false
    let slots : Nat :=
      let h := match recWord 0 with | some m => m.w.toNat | none => 0
      let w1 := match recWord 1 with | some m => m.w.toNat | none => 0
      if h / 4096 % 16 = 2 then (w1 / 256 % 16 + 1) * (w1 % 256) else w1 % 256
    let flag (j : Nat) : Host.Outcome State Fault Refusal :=
      match recWord 0 with
      | none => wrote 0x10 0x10 0 false
      | some h =>
        if bitAt h.w 11 = false then clean 0 h.poison
        else match recWord (5 + slots + j / 2) with
          | some m => clean (BitVec.ofNat 16 (m.w.toNat / 2 ^ (8 * (j % 2)) % 256)) m.poison
          | none => wrote 0x10 0x10 0 false
    let indexed (f : Nat → Host.Outcome State Fault Refusal) : Host.Outcome State Fault Refusal :=
      if (V A).toInt + (n : Int) < 0 then wrote 0x10 0x10 0 false else f ((V A).toInt + (n : Int)).toNat
    let ofPod (f : Nat → Word) : Host.Outcome State Fault Refusal :=
      if 32 ≤ (V A).toNat then wrote 0x10 0x10 0 false else if nPods s ≤ (V A).toNat then wrote 0x20 0 0 false else clean (f (V A).toNat) false
    (op = 0x01 → exec (.li l) s = clean imm false) ∧
    (op = 0x02 → exec (.mov l) s = clean (V A) (P A)) ∧
    (op = 0x03 → exec (.add l) s = clean (sat ((V A).toInt + (V B).toInt)) (P A || P B)) ∧
    (op = 0x04 → exec (.sub l) s = clean (sat ((V A).toInt - (V B).toInt)) (P A || P B)) ∧
    (op = 0x05 → exec (.addi l) s = clean (sat ((V A).toInt + imm.toInt)) (P A)) ∧
    (op = 0x06 → exec (.abs l) s = clean (sat (V A).toInt.natAbs) (P A)) ∧
    (op = 0x07 → exec (.min l) s = clean (BitVec.ofInt 16 (min (V A).toInt (V B).toInt)) (P A || P B)) ∧
    (op = 0x08 → exec (.max l) s = clean (BitVec.ofInt 16 (max (V A).toInt (V B).toInt)) (P A || P B)) ∧
    (op = 0x09 → exec (.mulq l) s = clean (sat (roundDiv ((V A).toInt * (V B).toInt) 32768)) (P A || P B)) ∧
    (op = 0x0A → exec (.sra l) s = clean (BitVec.ofInt 16 ((V A).toInt / 2 ^ (w % 16))) (P A)) ∧
    (op = 0x0B → exec (.and l) s = clean (V A &&& V B) (P A || P B)) ∧
    (op = 0x0C → exec (.or l) s = clean (V A ||| V B) (P A || P B)) ∧
    (op = 0x0D → exec (.andi l) s = clean (V A &&& imm) (P A)) ∧
    (op = 0x0E → exec (.ema l) s = clean (if w % 16 = 0 then V A else
      BitVec.ofInt 16 ((V D).toInt + ((V A).toInt - (V D).toInt + 2 ^ (w % 16 - 1)) / 2 ^ (w % 16))) (P D || P A)) ∧
    (op = 0x0F → exec (.clrp l) s = clean (V D) false) ∧
    (op = 0x10 → exec (.ldr l) s = load n) ∧
    (op = 0x11 → exec (.lds l) s = load (5 + n)) ∧
    (op = 0x12 → P A = false → exec (.ldsx l) s = indexed (fun j => load (5 + j))) ∧
    (op = 0x13 → exec (.ldf l) s = flag n) ∧
    (op = 0x14 → P A = false → exec (.ldfx l) s = indexed flag) ∧
    (op = 0x15 → exec (.ldc l) s = clean (tget 0 c.c (w % 4)) false) ∧
    (op = 0x16 → exec (.ldq l) s = clean (match w % 16 with
      | 0 => BitVec.ofNat 16 r.act.cause
      | 1 => c.state.setWidth 16
      | 2 => c.t0
      | 3 => c.t1
      | 4 => BitVec.ofNat 16 r.act.inst.val
      | 5 => BitVec.ofNat 16 r.act.e
      | 6 => BitVec.ofNat 16 (r.act.e / 65536)
      | 7 => BitVec.ofNat 16 (min 65535 r.act.skipped)
      | 8 => c.p.setWidth 16
      | 9 => BitVec.ofNat 16 (match r.buf with | some b => b.length | none => 0)
      | _ => 0) false) ∧
    (op = 0x17 → P A = false → exec (.ldp l) s = ofPod (fun p => BitVec.ofNat 16
      ((List.range 6).map (fun j => (match (s.pfe (6 * p + j)).st with | .off => 0 | .ok => 1 | .opn => 2 | .short => 3) * 4 ^ j)).sum)) ∧
    (op = 0x18 → P A = false → exec (.ldk l) s = ofPod (fun p => BitVec.ofNat 16 (s.ce.classes.toNat / 4 ^ p % 4)))

/-- Charm branches jump exactly under their conditions; consuming a poisoned register takes the poison branch, and a second time ends the run. -/
def Obligations.CharmBranchesAndPoison : Prop :=
  ∀ (l : Fin 2) (s : State) (r : Run) (w : Nat), charmAt s l r w →
    let op := w / 2 ^ 26 % 64
    let D := w / 2 ^ 23 % 8
    let A := w / 2 ^ 20 % 8
    let B := w / 2 ^ 17 % 8
    let T := w % 2 ^ 14
    let i := r.act.inst
    let c := s.chm i
    let V (x : Nat) : Word := tget 0 c.v x
    let P (x : Nat) : Prop := bitAt c.p x = true
    let goes (pc : Nat) : Host.Outcome State Fault Refusal := .next (setLaneRun s l (some { r with pc := pc, steps := r.steps + 1 }))
    let branch (b : Prop) [Decidable b] : Host.Outcome State Fault Refusal := goes (if b then T else r.pc + 1)
    let flagged (st : Byte) : State :=
      let t := s.setChm i { c with stat := c.stat ||| st }
      { t with ce := { t.ce with flt := s.ce.flt ||| 2, poisonCnt := bump s 11 0x008 s.ce.poisonCnt 1 } }
    let poisoned (x : Instr) : Prop :=
      (r.hit = false → exec x s = .next (setLaneRun (flagged 2) l (some { r with pc := r.pentry, steps := r.steps + 1, hit := true }))) ∧
      (r.hit = true → c.closing = false → ∃ t, exec x s = .next t ∧ laneRun t l = none ∧ t.chm i = { c with stat := c.stat ||| 0x42 } ∧
        (∀ j, j ≠ i.val → t.chm j = s.chm j) ∧ t = { s with ce := t.ce } ∧
        t.ce = { (setLaneRun (flagged 0x42) l none).ce with insts := t.ce.insts, slack0 := slackAfter s l 0 r.act, slack1 := slackAfter s l 1 r.act })
    (op = 0x20 → exec (.b l) s = goes T) ∧
    (op = 0x2A → exec (.bp l) s = goes (if bitAt c.p A = true then T else r.pc + 1)) ∧
    (op = 0x2B → exec (.jcs l) s = goes (T + r.act.cause)) ∧
    (op = 0x2C → exec (.jst l) s = goes (T + c.state.toNat)) ∧
    (¬ P A → ¬ P B →
      (op = 0x21 → exec (.beq l) s = branch (V A = V B)) ∧ (op = 0x22 → exec (.bne l) s = branch (V A ≠ V B)) ∧
      (op = 0x23 → exec (.blt l) s = branch ((V A).toInt < (V B).toInt)) ∧
      (op = 0x24 → exec (.bge l) s = branch ((V B).toInt ≤ (V A).toInt))) ∧
    (¬ P A →
      (op = 0x25 → exec (.bz l) s = branch (V A = 0)) ∧ (op = 0x26 → exec (.bnz l) s = branch (V A ≠ 0)) ∧
      (op = 0x27 → exec (.bltz l) s = branch ((V A).toInt < 0)) ∧ (op = 0x28 → exec (.bbs l) s = branch (bitAt (V A) D = true)) ∧
      (op = 0x29 → exec (.bbc l) s = branch (bitAt (V A) D = false))) ∧
    (∀ x ∈ [(0x12, Instr.ldsx l), (0x14, .ldfx l), (0x17, .ldp l), (0x18, .ldk l), (0x21, .beq l), (0x22, .bne l), (0x23, .blt l),
        (0x24, .bge l), (0x25, .bz l), (0x26, .bnz l), (0x27, .bltz l), (0x28, .bbs l), (0x29, .bbc l), (0x31, .sstv l), (0x32, .tset l),
        (0x38, .cls l), (0x39, .hold l), (0x3A, .vout l), (0x3B, .loop l), (0x3C, .emit l), (0x3D, .mark l)],
      op = x.1 → P A → poisoned x.2) ∧
    (∀ x ∈ [(0x21, Instr.beq l), (0x22, .bne l), (0x23, .blt l), (0x24, .bge l), (0x38, .cls l), (0x3C, .emit l)],
      op = x.1 → P B → poisoned x.2) ∧
    (op ≠ 0x20 → exec (.b l) s = .next s)

/-- Charm instructions that act: STATE, timers, stillness class, output commands and safe values, EVENT and MARK records, signals. -/
def Obligations.CharmActingInstructions : Prop :=
  ∀ (l : Fin 2) (s : State) (r : Run) (w : Nat), charmAt s l r w →
    let op := w / 2 ^ 26 % 64
    let D := w / 2 ^ 23 % 8
    let A := w / 2 ^ 20 % 8
    let B := w / 2 ^ 17 % 8
    let i := r.act.inst
    let c := s.chm i
    let a : Word := tget 0 c.v A
    let b : Word := tget 0 c.v B
    let PA := bitAt c.p A
    let PB := bitAt c.p B
    let goes (t : State) : Host.Outcome State Fault Refusal := .next (setLaneRun t l (some { r with pc := r.pc + 1, steps := r.steps + 1 }))
    let self (x : Inst) : State := s.setChm i x
    let flag (st : Byte) (flt : BitVec 12) : State :=
      let t := self { c with stat := c.stat ||| st }
      { t with ce := { t.ce with flt := s.ce.flt ||| flt } }
    let safeTaken (x : Instr) (t : State) : Prop := r.hit = false →
      exec x s = .next (setLaneRun
        (let u := t.setChm i { c with stat := c.stat ||| 2 }
         { u with ce := { u.ce with flt := s.ce.flt ||| 2, poisonCnt := bump s 11 0x008 s.ce.poisonCnt 1 } })
        l (some { r with pc := r.pentry, steps := r.steps + 1, hit := true }))
    let lane (blk off n : Nat) (x y : State) : State :=
      if s.fwWrote blk off = true ∨ (l = 0 ∧ s.fwWrote blk off (n + 1) = true) then x else if l = 0 then y else y.fwMark blk off (n + 1)
    let loop (v : Word) : LoopOut := loopTakes (s.lout a.toNat) v
    let e := r.act.e
    let head (h low : Nat) : List Word := [BitVec.ofNat 16 h, BitVec.ofNat 16 (e / 2 ^ 48 % 16 * 4096 + low), BitVec.ofNat 16 e,
      BitVec.ofNat 16 (e / 65536), BitVec.ofNat 16 (e / 2 ^ 32)]
    let queued (x : Instr) (n : Nat) (words : List Word) : Prop :=
      (64 ≤ s.ce.wq.length → exec x s = goes { s with ce := { s.ce with wqDrop := bump s 11 0x00E s.ce.wqDrop 1, flt := s.ce.flt ||| 0x40 } }) ∧
      (s.ce.wq.length < 64 → ∃ k, k.val = n ∧ exec x s = goes { s with
        ce := { s.ce with wq := s.ce.wq ++ [{ stream := k, e := e, words := words, ord := 32 * s.ss.ord }] }, ss := { s.ss with ord := s.ss.ord + 1 } })
    (op = 0x30 → exec (.sst l) s = goes (self { c with state := BitVec.ofNat 8 w })) ∧
    (op = 0x31 → PA = false → exec (.sstv l) s = goes (self { c with state := a.setWidth 8 })) ∧
    (op = 0x32 → PA = false → exec (.tset l) s = goes (self (if D % 2 = 0 then { c with t0 := a } else { c with t1 := a }))) ∧
    (op = 0x33 → exec (.tseti l) s =
      goes (self (if D % 2 = 0 then { c with t0 := BitVec.ofNat 16 w } else { c with t1 := BitVec.ofNat 16 w }))) ∧
    (op = 0x38 → PA = false → PB = false →
      (a.toNat < nPods s → ∃ m, exec (.cls l) s = goes (lane 11 (0x020 + a.toNat / 8 * 2) a.toNat s { s with ce := { s.ce with classes := m } }) ∧
        m.extractLsb' (2 * a.toNat) 2 = b.setWidth 2 ∧ ∀ p, p ≠ a.toNat → m.extractLsb' (2 * p) 2 = s.ce.classes.extractLsb' (2 * p) 2) ∧
      (32 ≤ a.toNat → exec (.cls l) s = goes (flag 0x10 0x10)) ∧
      (nPods s ≤ a.toNat → a.toNat < 32 → exec (.cls l) s = goes (flag 0x20 0))) ∧
    (op = 0x39 → PA = false → PB = false →
      (a.toNat < nLines s → exec (.hold l) s = goes (lane 15 (a.toNat / 16 * 2) a.toNat s { s with io := { s.io with ilCmd :=
        if b ≠ 0 then s.io.ilCmd ||| (1#32 <<< a.toNat) else s.io.ilCmd &&& ~~~(1#32 <<< a.toNat) } })) ∧
      (nLines s ≤ a.toNat → exec (.hold l) s = goes (flag 0x20 0x80))) ∧
    (op = 0x3A → PA = false → PB = false →
      (a.toNat < nVouts s → exec (.vout l) s = goes (lane 16 (0x100 + 0x10 * a.toNat) a.toNat s
        { s with io := { s.io with voCode := tput 0x8000 s.io.voCode a.toNat b } })) ∧
      (nVouts s ≤ a.toNat → exec (.vout l) s = goes (flag 0x20 0x80))) ∧
    (op = 0x3B → PA = false → PB = false →
      (a.toNat < nLoops s → exec (.loop l) s = goes (lane 17 (0x100 + 0x10 * a.toNat) a.toNat s
        (s.setLout a.toNat (loop b)))) ∧
      (nLoops s ≤ a.toNat → exec (.loop l) s = goes (flag 0x20 0x80))) ∧
    (op = 0x39 → PA = false → PB = true → a.toNat < nLines s → safeTaken (.hold l)
      (let y (c : BitVec 32) : State := { s with io := { s.io with ilCmd := c, ilPois := s.io.ilPois ||| (1#32 <<< a.toNat) } }
       lane 15 (a.toNat / 16 * 2) a.toNat (y s.io.ilCmd)
         (y (if bitAt s.io.ilSafe a.toNat then s.io.ilCmd ||| (1#32 <<< a.toNat) else s.io.ilCmd &&& ~~~(1#32 <<< a.toNat))))) ∧
    (op = 0x3A → PA = false → PB = true → a.toNat < nVouts s → safeTaken (.vout l)
      (let y (c : Tab Word) : State := { s with io := { s.io with voCode := c, voPois := s.io.voPois ||| (1#16 <<< a.toNat) } }
       lane 16 (0x100 + 0x10 * a.toNat) a.toNat (y s.io.voCode) (y (tput 0x8000 s.io.voCode a.toNat (tget 0x8000 s.io.voSafe a.toNat))))) ∧
    (op = 0x3B → PA = false → PB = true → a.toNat < nLoops s → safeTaken (.loop l)
      (lane 17 (0x100 + 0x10 * a.toNat) a.toNat (s.setLout a.toNat { s.lout a.toNat with pois := true })
        (s.setLout a.toNat { loop (s.lout a.toNat).safe with pois := true }))) ∧
    (∀ x ∈ [(0x39, Instr.hold l, nLines s), (0x3A, .vout l, nVouts s), (0x3B, .loop l, nLoops s)],
      op = x.1 → PA = false → PB = true → x.2.2 ≤ a.toNat → r.hit = false → exec x.2.1 s = .next (setLaneRun
        (let u := s.setChm i { c with stat := c.stat ||| 0x22 }
         { u with ce := { u.ce with flt := s.ce.flt ||| 0x82, poisonCnt := bump s 11 0x008 s.ce.poisonCnt 1 } })
        l (some { r with pc := r.pentry, steps := r.steps + 1, hit := true }))) ∧
    (op = 0x3C → PA = false → PB = false →
      (bitAt s.ce.evStream 8 = false → exec (.emit l) s = goes s) ∧
      (bitAt s.ce.evStream 8 = true → queued (.emit l) (s.ce.evStream.toNat % 256)
        (head 0x4007 (512 + w % 256) ++ [BitVec.ofNat 16 i.val, a, b]))) ∧
    (op = 0x3D → PA = false → queued (.mark l) (w % 256) (head 0x6006 0 ++ [BitVec.ofNat 16 i.val, a])) ∧
    (op = 0x3E → exec (.sig l) s = goes { s with ce := { s.ce with
      sigStk := s.ce.sigStk ||| (1#8 <<< (w % 8)), sigInst := tput 0 s.ce.sigInst (w % 8) (BitVec.ofNat 11 i.val) } })

/-- Fetched records reach their sources and subscribers, timers raise activations, a free lane takes the earliest deadline, runs end. -/
def Obligations.CharmEngineFetchesAndSchedules : Prop :=
  (∀ s : State, (busRuns s = false ∨ s.ss.fetches = [] → exec .recordFetch s = .next s) ∧
    (∀ f rest, busRuns s = true → s.ss.fetches = f :: rest →
      let is (j : Nat) : Prop := j < 32 ∧ (tget 0 s.ce.srcs j).toNat / 2 ^ 14 = 1 ∧ (tget 0 s.ce.srcs j).toNat % 256 = f.stream.val
      let st := s.strm f.stream
      ((st.armed = false ∨ ∀ j, ¬ is j) → exec .recordFetch s = .next { s with ss := { s.ss with fetches := rest } }) ∧
      (st.armed = true → (∃ j, is j) → portBlocked s 1 = true → ∃ t ws, exec .recordFetch s = .next t ∧ ws.length = min f.len 320 ∧
        (∀ m ∈ ws, m.poison = true) ∧ t = { s with ce := t.ce, free := t.free, ss := { s.ss with fetches := rest } } ∧
        (∀ j, is j → tget none t.ce.bufs j = some ⟨f.e, ws⟩) ∧ (∀ j, ¬ is j → tget none t.ce.bufs j = tget none s.ce.bufs j)) ∧
      (st.armed = true → (∃ j, is j) → portBlocked s 1 = false → ∃ t, exec .recordFetch s = .next t ∧ t.ss.fetches = rest ∧
        t = { s with ce := t.ce, ss := { s.ss with fetches := rest, elog := t.ss.elog, elogOvf := t.ss.elogOvf, flt := t.ss.flt } } ∧
        (∀ j, is j → tget none t.ce.bufs j = some ⟨f.e, (List.range (min f.len 320)).map (fun x =>
          let a := posWord s st (f.pos + x); ⟨storeWord s a, storePois s a⟩)⟩) ∧
        (∀ j, ¬ is j → tget none t.ce.bufs j = tget none s.ce.bufs j) ∧
        (∀ (i : Fin 2048) k j, s.ce.run = true → st.kind ≠ 3 → (s.chm i).en = true → (s.chm i).closing = false →
          dirPois s (s.chm i).prog.toNat = false → dirValid s (s.chm i).prog.toNat = true → k < 4 → subOf (s.chm i) k = (true, j) → is j →
          ∃ a ∈ t.ce.periodic, a.inst = i ∧ a.cause = k ∧ a.e = f.e ∧
            a.deadline = some (f.e + (if st.kind = 1 then modePeriod st.mode.toNat else 128 * (st.km1.toNat + 1))) ∧
            (tabWf {} s.ce.insts = true → (∀ x ∈ s.ce.insts, x.1 < 2048) → a.skipped = (match s.ce.periodic.find? (fun b => b.inst == i && b.cause == k) with | some b => b.skipped + 1 | none => 0))) ∧
        (∀ (l : Fin 2) x, st.kind ≠ 3 → laneRun s l = some x →
          (x.act.strm = some f.stream → x.late = false → (∀ b ∈ s.ce.periodic, ¬ (b.inst = x.act.inst ∧ b.cause = x.act.cause)) →
            laneRun t l = some { x with late := true } ∧ bitAt (t.chm x.act.inst).stat 0 = true ∧ bitAt t.ce.flt 0 = true) ∧
          (x.act.strm ≠ some f.stream ∨ x.late = true ∨ (∃ b ∈ s.ce.periodic, b.inst = x.act.inst ∧ b.cause = x.act.cause) →
            laneRun t l = some x))))) ∧
  (∀ s : State, (busRuns s = false ∨ s.ce.expired = [] → exec .charmTimerExpiry s = .next s) ∧
    (∀ i w e rest, busRuns s = true → s.ce.expired = (i, w, e) :: rest →
      let u : State := { s with ce := { s.ce with expired := rest } }
      let p := (s.chm i).prog.toNat
      let off := s.ce.run = false ∨ (s.chm i).en = false ∨ (s.chm i).closing = true
      let q := laneBg s (i.val % 2)
      (off → exec .charmTimerExpiry s = .next u) ∧
      (¬ off → dirPois s p = true ∨ dirValid s p = true →
        (q.length < 128 → exec .charmTimerExpiry s =
          .next (setLaneBg u (i.val % 2) (q ++ [{ inst := i, cause := if w then 5 else 4, e := e }]))) ∧
        (128 ≤ q.length → exec .charmTimerExpiry s =
          .next { u with ce := { u.ce with bgqOvf := bump s 11 0x00C s.ce.bgqOvf 1, flt := s.ce.flt ||| 0x20 } })))) ∧
  (∀ (l : Fin 2) (s : State),
    let mine := s.ce.periodic.filter (fun a => a.inst.val % 2 == l.val)
    let before (a b : Act) : Prop := a.deadline.getD 0 < b.deadline.getD 0 ∨ a.deadline.getD 0 = b.deadline.getD 0 ∧
      (a.inst < b.inst ∨ a.inst = b.inst ∧ a.cause < b.cause)
    let may := busRuns s = true ∧ s.pwr.entering = false ∧ laneRun s l = none ∧ s.ce.run = true
    (busRuns s = false ∨ s.pwr.entering = true ∨ (laneRun s l = none ∧ (s.ce.run = false ∨ mine = [] ∧ laneBg s l = [])) →
      exec (.activationStart l) s = .next s) ∧
    (∀ a, may → (a ∈ mine ∧ ∀ x ∈ mine, ¬ before x a) ∨ (mine = [] ∧ ∃ q, laneBg s l = a :: q) →
      let p := (s.chm a.inst).prog.toNat
      (dirPois s p = false → dirValid s p = true → ∃ t r, exec (.activationStart l) s = .next t ∧ laneRun t l = some r ∧
        r.act.inst = a.inst ∧ r.act.cause = a.cause ∧ r.pc = charmWord s (2 * p) % 2 ^ 14 ∧ r.pentry = charmWord s (2 * p) / 2 ^ 16 % 2 ^ 14 ∧
        r.maxSteps = charmWord s (2 * p + 1) % 64 + 1 ∧ r.steps = 0 ∧ r.hit = false ∧
        (mine ≠ [] → t.ce.periodic = s.ce.periodic.filter (fun x => !(x.inst == a.inst && x.cause == a.cause)) ∧ laneBg t l = laneBg s l) ∧
        (mine = [] → t.ce.periodic = s.ce.periodic ∧ laneBg t l = (laneBg s l).drop 1) ∧
        t.ce.insts = s.ce.insts ∧ t = { s with ce := t.ce }) ∧
      (dirPois s p = false → dirValid s p = false → ∃ t, exec (.activationStart l) s = .next t ∧ laneRun t l = none ∧
        t.chm a.inst = { s.chm a.inst with stat := (s.chm a.inst).stat ||| 8 } ∧ t.ce.flt = s.ce.flt ||| 8 ∧ t = { s with ce := t.ce }) ∧
      (dirPois s p = true → ∃ t, exec (.activationStart l) s = .next t ∧ laneRun t l = none ∧
        t.chm a.inst = { s.chm a.inst with stat := (s.chm a.inst).stat ||| 0x80 } ∧ t.ce.flt = s.ce.flt ||| 0x800 ∧
        ((∀ x ∈ mine, x.deadline.isSome = true) → t.ce.slack0 = slackAfter s l 0 a ∧ t.ce.slack1 = slackAfter s l 1 a) ∧
        (∀ h, h < 2 → charmPois s (2 * p + h) = true → 0x8000 + 2 * p + h ∈ t.ss.refetches) ∧
        t = { s with ce := t.ce, ss := { s.ss with refetches := t.ss.refetches } }))) ∧
  (∀ (l : Fin 2) (s : State) (r : Run), busRuns s = true → laneRun s l = some r →
    let i := r.act.inst
    let c := s.chm i
    let ends (x : Instr) (st : Byte) (flt : BitVec 12) (overruns : Nat) : Prop := ∃ t, exec x s = .next t ∧ laneRun t l = none ∧
      t.chm i = { c with stat := c.stat ||| st, en := c.en && !c.closing, closing := false } ∧ (∀ j, j ≠ i.val → t.chm j = s.chm j) ∧
      t.ce = { (setLaneRun s l none).ce with
        insts := t.ce.insts, slack0 := slackAfter s l 0 r.act, slack1 := slackAfter s l 1 r.act, flt := s.ce.flt ||| flt,
        overrunCnt := bump s 11 0x00A s.ce.overrunCnt overruns } ∧ t = { s with ce := t.ce }
    (∀ w, charmAt s l r w → w / 2 ^ 26 % 64 = 0 → ends (.halt l) 0 0 0) ∧
    (∀ w, charmAt s l r w → knownOp (w / 2 ^ 26 % 64) = false → ends (.illegalOp l) 8 8 0) ∧
    (r.maxSteps ≤ r.steps → ends (.stepLimit l) 4 4 1) ∧ (r.steps < r.maxSteps → exec (.stepLimit l) s = .next s))

/-- CE_CTRL stops the engine and clears its queues (RUN stays 0 in SAFE state); instances and sources are written under the lease;
stillness classes, slack registers, counters, sticky and enable bits store and read by their fields. -/
def Obligations.CharmEngineRegisters : Prop :=
  ∀ (r : Req) (v : Word) (s : State), mayWrite s r = true →
    let u := reqWaits s r
    let i := (u.keeper (reqKeeper r)).ceIsel.toNat
    let c := u.chm i
    let leased := r = .loader ∨ u.ce.lease.held = true ∧ u.ce.lease.owner.val = reqKeeper r
    let refused : Host.Outcome State Fault Refusal := .next { u with ce := { u.ce with flt := u.ce.flt ||| 0x100 } }
    let without (p : Act → Bool) : Ce := { u.ce with
      periodic := u.ce.periodic.filter (fun a => !p a), bg0 := u.ce.bg0.filter (fun a => !p a), bg1 := u.ce.bg1.filter (fun a => !p a) }
    exec (.ceCtrlWrite r v) s = .next (if bitAt v 0 && !s.integ.safe then { u with ce := { u.ce with run := true } }
      else { u with ce := { u.ce with run := false, periodic := [], bg0 := [], bg1 := [], expired := [] }, ss := { u.ss with fetches := [] } }) ∧
    (¬ leased → exec (.ceICtrlWrite r v) s = refused ∧ ∀ n, exec (.ceSrcWrite r n v) s = refused) ∧
    (leased → c.en = false → exec (.ceICtrlWrite r v) s =
      .next (u.setChm i { c with en := bitAt v 15, prog := v.extractLsb' 8 6, state := v.setWidth 8 })) ∧
    (leased → c.en = true → bitAt v 15 = true → exec (.ceICtrlWrite r v) s = .next (u.setChm i { c with closing := false })) ∧
    (leased → c.en = true → bitAt v 15 = false →
      let t : State := { u with ce := { without (fun a => a.inst.val == i) with expired := u.ce.expired.filter (fun x => x.1.val != i) } }
      let runs := (∃ a, u.ce.run0 = some a ∧ a.act.inst.val = i) ∨ ∃ a, u.ce.run1 = some a ∧ a.act.inst.val = i
      (runs → exec (.ceICtrlWrite r v) s = .next (t.setChm i { c with closing := true })) ∧
      (¬ runs → exec (.ceICtrlWrite r v) s = .next (t.setChm i { c with en := false }))) ∧
    (∀ n : Fin 32, leased → exec (.ceSrcWrite r n v) s = .next { u with ce := { without (fun a => a.src == some n) with
      srcs := tput 0 u.ce.srcs n (v &&& (if 2 ≤ v.toNat / 2 ^ 14 then 0xC01F else 0xC0FF)), bufs := tput none u.ce.bufs n none } }) ∧
    (∀ w : Fin 4,
      (8 * w.val < nPods s → ∃ m, exec (.ceClassWrite r w v) s = .next ({ u with ce := { u.ce with classes := m } }.fwMark 11 (0x020 + 2 * w.val)) ∧
        m.extractLsb' (16 * w) 16 = v ∧
        (∀ x : Fin 4, x ≠ w → m.extractLsb' (16 * x) 16 = u.ce.classes.extractLsb' (16 * x) 16)) ∧
      (nPods s ≤ 8 * w.val → ∀ k, r = .keeper k →
        exec (.ceClassWrite r w v) s = .next (u.setKeeper k { u.keeper k with absentHit := true }))) ∧
    exec (.ceSlackWrite r 0 v) s = .next ({ u with ce := { u.ce with slack0 := 0xFFFF } }.fwMark 11 0x016) ∧
    exec (.ceSlackWrite r 1 v) s = .next ({ u with ce := { u.ce with slack1 := 0xFFFF } }.fwMark 11 0x018) ∧
    (let e := u.ce
     let k := reqKeeper r
     let a (o : Nat) : W32 := BitVec.ofNat 32 (0x4000B000 + o)
     let was : Inst := tget {} s.was.ce.insts i
     let put (x : Inst) : State := u.setChm i x
     let conf : List (W32 × State) :=
       [(a 0x104, put { c with sub01 := v &&& 0x9F9F }), (a 0x106, put { c with sub23 := v &&& 0x9F9F }),
        (a 0x118, put { c with p := v.setWidth 8 }), (a 0x11A, put { c with t0 := v }), (a 0x11C, put { c with t1 := v })] ++
       (List.range 8).map (fun j => (a (0x108 + 2 * j), put { c with v := tput 0 c.v j v })) ++
       (List.range 4).map (fun j => (a (0x11E + 2 * j), put { c with c := tput 0 c.c j v }))
     (leased → c.en = false → storesTo r v s conf) ∧
     (leased → c.en = true → storesTo r v s (conf.map (fun x => (x.1, { u with ce := { e with flt := e.flt ||| 0x200 } })))) ∧
     (¬ leased → storesTo r v s ((a 0x014, u) :: conf |>.map (fun x => (x.1, { u with ce := { e with flt := e.flt ||| 0x100 } })))) ∧
     (leased → storesTo r v s [(a 0x014, { u with ce := { e with evStream := v.setWidth 9 } })]) ∧
     storesTo r v s
       [(a 0x002, { u with ce := { e with flt := cleared e.flt s.was.ce.flt v } }), (a 0x004, { u with ce := { e with fltIe := v.setWidth 12 } }),
        (a 0x006, { u with ce := { e with lateCnt := v } }.fwMark 11 0x006), (a 0x008, { u with ce := { e with poisonCnt := v } }.fwMark 11 0x008),
        (a 0x00A, { u with ce := { e with overrunCnt := v } }.fwMark 11 0x00A), (a 0x00C, { u with ce := { e with bgqOvf := v } }.fwMark 11 0x00C),
        (a 0x00E, { u with ce := { e with wqDrop := v } }.fwMark 11 0x00E), (a 0x012, { u with ce := { e with lease := { e.lease with tmo := v } } }),
        (a 0x030, { u with ce := { e with sigStk := cleared e.sigStk s.was.ce.sigStk v } }), (a 0x032, { u with ce := { e with sigIe := v.setWidth 8 } }),
        (a 0x100, u.setKeeper k { u.keeper k with ceIsel := v.setWidth 11 }), (a 0x126, put { c with stat := cleared c.stat was.stat v }),
        (a 0x128, (put { c with lateCnt := v }).fwMark 11 0x128 i)] ∧
     readsAs r u
       [(a 0x000, if e.run then 1 else 0), (a 0x002, e.flt.toNat + e.lastOwner.val * 4096), (a 0x004, e.fltIe.toNat), (a 0x006, e.lateCnt.toNat),
        (a 0x008, e.poisonCnt.toNat), (a 0x00A, e.overrunCnt.toNat), (a 0x00C, e.bgqOvf.toNat), (a 0x00E, e.wqDrop.toNat),
        (a 0x012, e.lease.tmo.toNat), (a 0x014, e.evStream.toNat), (a 0x016, e.slack0.toNat), (a 0x018, e.slack1.toNat),
        (a 0x030, e.sigStk.toNat), (a 0x032, e.sigIe.toNat), (a 0x100, i), (a 0x102, (if c.en then 32768 else 0) + c.prog.toNat * 256 + c.state.toNat),
        (a 0x104, c.sub01.toNat), (a 0x106, c.sub23.toNat), (a 0x118, c.p.toNat), (a 0x11A, c.t0.toNat), (a 0x11C, c.t1.toNat), (a 0x128, c.lateCnt.toNat)] ∧
     (∀ (w : Fin 128) (b : Fin 2), ∃ t, exec (.registerWrite r (a (0x200 + 0x100 * b.val + 2 * w.val)) v) s = .next t ∧
       t = { u with ce := { e with insts := t.ce.insts } } ∧
       ∀ j : Fin 2048,
         let x := u.chm j
         t.chm j = if j.val / 16 = w.val ∧ bitAt v (j.val % 16) = true ∧ bitAt (tget {} s.was.ce.insts j : Inst).stat b = true then
           { x with stat := x.stat &&& ~~~(1#8 <<< b.val) } else x))

/-- A port opens a frame at a start bit, collects characters, and ends it by its delimiter, a break, a gap or a disable; frames of one
cycle stand in port order; it transmits its FIFO bit by bit; its registers store and read by their fields. -/
def Obligations.PortsReceiveFrames : Prop :=
  ∀ (n : Fin 16) (s : State),
    let p := s.port n
    let mode := if p.mode = 3 then 1 else p.mode.toNat
    let hears := busRuns s = true ∧ n.val < nPorts s ∧ p.en = true ∧ ¬ (p.echoSupp = true ∧ p.de = true)
    let only (t : State) : Prop := (∀ m, m ≠ n.val → t.port m = s.port m) ∧
      t = { s with io := { s.io with ports := t.io.ports, frameAt := t.io.frameAt, frameOrd := t.io.frameOrd },
                   ss := { s.ss with ord := t.ss.ord } }
    let takes (u t : State) : Prop := if u.io.frameAt = u.cyc + 1 then
        t.ss.ord = u.ss.ord ∧ t.io.frameAt = u.io.frameAt ∧ t.io.frameOrd = u.io.frameOrd
      else t.ss.ord = u.ss.ord + 1 ∧ t.io.frameAt = u.cyc + 1 ∧ t.io.frameOrd = 32 * u.ss.ord
    let stays (u t : State) : Prop := t.ss.ord = u.ss.ord ∧ t.io.frameAt = u.io.frameAt ∧ t.io.frameOrd = u.io.frameOrd
    let completes (t : State) (q : Port) (f : Frame) (cause : BitVec 2) (cut : Bool) : Prop :=
      t.port n = { q with frame := none, done := q.done ++ [{ f with cause := cause, trunc := cut, ord := t.io.frameOrd + n.val }],
                          discardTrunc := q.discardTrunc || cut, stat := if cut then q.stat ||| 4 else q.stat } ∧ takes s t
    let open_ (t : State) (q : Port) : Prop := t.port n = q ∧ stays s t
    (¬ hears → exec (.startBit n) s = .next s ∧ exec (.idleGap n) s = .next s ∧ exec (.breakRx n) s = .next s ∧
      ∀ b e l, exec (.characterReceived n b e l) s = .next s) ∧
    (hears → p.breakWait = false → p.frame = none → p.discardTrunc = false → p.discardOvr = none →
      (2 ≤ p.done.length → exec (.startBit n) s =
        .next (s.setPort n { p with
          discardOvr := some 0, stat := p.stat ||| 8, ovrCnt := bump s 14 (0x118 + 0x40 * n.val) p.ovrCnt 1 })) ∧
      (p.done.length < 2 → ∃ tag : BitVec 2, exec (.startBit n) s = .next (s.setPort n { p with frame := some { e := s.e, tag := tag } }) ∧
        ((∀ j, j < nPods s → bitAt p.pods j = false) → tag = 1) ∧
        (∀ j, j < nPods s → bitAt p.pods j = true → s.was.ce.classes.toNat / 4 ^ j % 4 ≤ tag.toNat) ∧
        ((∃ j, j < nPods s ∧ bitAt p.pods j = true) → ∃ j, j < nPods s ∧ bitAt p.pods j = true ∧ s.was.ce.classes.toNat / 4 ^ j % 4 = tag.toNat))) ∧
    (∀ (f : Frame) (b : Byte) (bad low : Bool), hears → p.breakWait = false → p.frame = some f →
      let d := if p.bits7 then b &&& 0x7F else b
      let err := (bad && (p.parity == 1 || p.parity == 2)) || low
      let g : Frame := { f with bytes := f.bytes ++ [d], lineErr := f.lineErr || err }
      let q : Port := { p with frame := some g, stat := if err then p.stat ||| 2 else p.stat }
      let len := if p.len = 0 then 1 else min 512 p.len.toNat
      isBreak p b bad low = false → ∃ t, exec (.characterReceived n b bad low) s = .next t ∧ only t ∧
        (mode = 0 → d = p.endByte → completes t q g 0 false) ∧
        (¬ (mode = 0 ∧ d = p.endByte) → len ≤ f.bytes.length + 1 → completes t q g 2 (mode != 2)) ∧
        (¬ (mode = 0 ∧ d = p.endByte) → f.bytes.length + 1 < len → open_ t q)) ∧
    (∀ (b : Byte) (bad low : Bool), hears → p.breakWait = false → p.frame = none → isBreak p b bad low = false →
      let ends := mode = 0 ∧ (if p.bits7 then b &&& 0x7F else b) = p.endByte
      let len := if p.len = 0 then 1 else min 512 p.len.toNat
      let gives (q : Port) : Prop := exec (.characterReceived n b bad low) s = .next (s.setPort n q)
      (p.discardTrunc = true → gives { p with truncCnt := bump s 14 (0x116 + 0x40 * n.val) p.truncCnt 1, discardTrunc := !decide ends }) ∧
      (∀ k, p.discardTrunc = false → p.discardOvr = some k →
        (ends → gives { p with discardOvr := none }) ∧
        (¬ ends → len ≤ k + 1 → gives { p with discardOvr := none, discardTrunc := mode != 2 }) ∧
        (¬ ends → k + 1 < len → gives { p with discardOvr := some (k + 1) })) ∧
      (p.discardTrunc = false → p.discardOvr = none → exec (.characterReceived n b bad low) s = .next s)) ∧
    (hears → p.breakWait = false → (∀ b bad low, isBreak p b bad low = true → exec (.characterReceived n b bad low) s = exec (.breakRx n) s) ∧
      ∃ t, exec (.breakRx n) s = .next t ∧ only t ∧
        let q : Port := { p with stat := p.stat ||| 0x20, breakWait := true, discardTrunc := false, discardOvr := none }
        (p.frame = none → open_ t q) ∧ (∀ f, p.frame = some f → completes t q { f with lineErr := true } 3 false)) ∧
    (hears → (mode = 1 ∨ p.gap ≠ 0) → ∃ t, exec (.idleGap n) s = .next t ∧ only t ∧
      let q : Port := { p with discardTrunc := false, discardOvr := none }
      (∀ f, p.frame = some f → f.bytes ≠ [] → completes t q f 1 false) ∧ (p.frame = none → open_ t q)) ∧
    (busRuns s = true → n.val < nPorts s → exec (.breakEnd n) s = .next (s.setPort n { p with breakWait := false })) ∧
    (busRuns s = true → n.val < nPorts s → ∀ x rest, p.en = true → p.txFifo = x :: rest →
      let bits : List Bool := (List.range (if p.bits7 then 7 else 8)).map (fun i => bitAt x i)
      let parity : List Bool := if p.parity = 1 then [bits.count true % 2 == 1] else if p.parity = 2 then [bits.count true % 2 == 0] else []
      exec (.characterSent n) s = .next (s.setPort n { p with
        txFifo := rest, de := p.deEn && !rest.isEmpty,
        txd := [false] ++ bits ++ parity ++ [true] ++ (if p.stop2 then [true] else []) })) ∧
    (busRuns s = false ∨ nPorts s ≤ n.val ∨ p.en = false ∨ p.txFifo = [] → exec (.characterSent n) s = .next s) ∧
    (∀ (r : Req) (v : Word), mayWrite s r = true → n.val < nPorts s → s.integ.safe = false →
      let u := reqWaits s r
      let x := u.port n
      (32 ≤ x.txFifo.length → exec (.txdata r n v) s = .next (u.setPort n { x with stat := x.stat ||| 0x40 })) ∧
      (x.txFifo.length < 32 → exec (.txdata r n v) s =
        .next (u.setPort n { x with txFifo := x.txFifo ++ [v.setWidth 8], de := x.en && x.deEn })) ∧
      (∃ t, exec (.ipCtrlWrite r n v) s = .next t ∧ (∀ m, m ≠ n.val → t.port m = u.port m) ∧
        t = { u with io := { u.io with ports := t.io.ports, frameAt := t.io.frameAt, frameOrd := t.io.frameOrd },
                     ss := { u.ss with ord := t.ss.ord } } ∧
        (if bitAt v 15 = false ∧ x.frame.isSome = true then takes u t else stays u t) ∧
        let y := t.port n
        y.en = bitAt v 15 ∧ y.deEn = bitAt v 14 ∧ y.echoSupp = bitAt v 13 ∧ y.mode = v.extractLsb' 8 2 ∧ y.stream = v.setWidth 8 ∧
        y.de = (bitAt v 15 && bitAt v 14 && !x.txFifo.isEmpty) ∧ y.txFifo = x.txFifo ∧
        (bitAt v 15 = true → y.frame = x.frame ∧ y.done = x.done) ∧
        (bitAt v 15 = false → y.frame = none ∧ y.done = (match x.frame with
          | some f => x.done ++ [{ f with cause := 3, trunc := false, ord := t.io.frameOrd + n.val }] | none => x.done))) ∧
      (let a (o : Nat) : W32 := BitVec.ofNat 32 (0x4000E100 + 0x40 * n.val + o)
       let was : Port := tget {} s.was.io.ports n
       let put (y : Port) : State := u.setPort n y
       let pods (w : Nat) : BitVec 32 := setMapWord x.pods w v.toNat &&& BitVec.ofNat 32 (2 ^ nPods s - 1)
       storesTo r v s
         [(a 0x02, put { x with pre := bitAt v 15, bits7 := bitAt v 4, parity := v.extractLsb' 2 2, stop2 := bitAt v 1 }),
          (a 0x04, put { x with div := v }), (a 0x06, put { x with gap := v.extractLsb' 8 8, endByte := v.setWidth 8 }),
          (a 0x08, put { x with len := v.setWidth 10 }), (a 0x0A, put { x with pods := pods 0 }),
          (a 0x0E, put { x with stat := cleared x.stat was.stat v }), (a 0x10, put { x with ie := v.setWidth 7 }),
          (a 0x14, (put { x with frames := v }).fwMark 14 (0x114 + 0x40 * n.val)),
          (a 0x16, (put { x with truncCnt := v }).fwMark 14 (0x116 + 0x40 * n.val)),
          (a 0x18, (put { x with ovrCnt := v }).fwMark 14 (0x118 + 0x40 * n.val))] ∧
       (16 < nPods s → storesTo r v s [(a 0x0C, put { x with pods := pods 1 })]) ∧
       readsAs r u
         [(a 0x00, (if x.en then 32768 else 0) + (if x.deEn then 16384 else 0) + (if x.echoSupp then 8192 else 0) + x.mode.toNat * 256 + x.stream.toNat),
          (a 0x02, (if x.pre then 32768 else 0) + (if x.bits7 then 16 else 0) + x.parity.toNat * 4 + (if x.stop2 then 2 else 0)),
          (a 0x04, x.div.toNat), (a 0x06, x.gap.toNat * 256 + x.endByte.toNat), (a 0x08, x.len.toNat), (a 0x0A, mapWord x.pods 0),
          (a 0x0E, x.stat.toNat + (if x.frame.isSome then 256 else 0) + (if x.en && !x.txFifo.isEmpty then 512 else 0) +
            (if 32 ≤ x.txFifo.length then 1024 else 0)),
          (a 0x10, x.ie.toNat), (a 0x14, x.frames.toNat), (a 0x16, x.truncCnt.toNat), (a 0x18, x.ovrCnt.toNat)]))

/-- Hold lines, ratiometric outputs and loops take their commands and show them at their balls; mismatches and compliance are reported;
the tick measures; the registers store and read by their fields, and writes are ignored in SAFE state. -/
def Obligations.OutputsFollowTheirCommands : Prop :=
  (∀ (r : Req) (v : Word) (s : State), mayWrite s r = true →
    let u := reqWaits s r
    let x := u.io
    let was := s.was.io
    let io (y : Io) : State := { u with io := y }
    let il (o : Nat) : W32 := BitVec.ofNat 32 (0x4000F000 + o)
    let vo (o : Nat) : W32 := BitVec.ofNat 32 (0x40010000 + o)
    let lo (o : Nat) : W32 := BitVec.ofNat 32 (0x40011100 + o)
    exec (.pwrTjMaxWrite r v) s = .next ({ u with pwr := { u.pwr with tjMax := u.pwr.tj } }.fwMark 2 0x016) ∧
    (s.integ.safe = false →
      (∀ w : Fin 2, 16 * w.val < nLines s →
        exec (.ilCmdWrite r w v) s = .next ((io { x with ilCmd := setMapWord x.ilCmd w v.toNat }).fwMark 15 (2 * w.val)) ∧
        storesTo r v s
          [(il (0x008 + 2 * w.val), io { x with ilSafe := setMapWord x.ilSafe w v.toNat }),
           (il (0x00C + 2 * w.val), io { x with ilMis := clearedWord x.ilMis was.ilMis w v }),
           (il (0x010 + 2 * w.val), io { x with ilPois := clearedWord x.ilPois was.ilPois w v }),
           (il (0x014 + 2 * w.val), io { x with ilIe := setMapWord x.ilIe w v.toNat })]) ∧
      (∀ n : Fin 16, n.val < nVouts s →
        exec (.voCodeWrite r n v) s = .next ((io { x with voCode := tput 0x8000 x.voCode n v }).fwMark 16 (0x100 + 0x10 * n.val)) ∧
        storesTo r v s
          [(vo (0x102 + 0x10 * n.val), io { x with voSafe := tput 0x8000 x.voSafe n v }),
           (vo 0x002, io { x with voRefLow := x.voRefLow && !(bitAt v 0 && was.voRefLow) }), (vo 0x004, io { x with voRefIe := bitAt v 0 }),
           (vo 0x006, io { x with voPois := cleared x.voPois was.voPois v }),
           (vo 0x008, io { x with voPoisIe := v &&& BitVec.ofNat 16 (2 ^ nVouts s - 1) })]) ∧
      (∀ n : Fin 8, n.val < nLoops s →
        let l := u.lout n
        let w : LoopOut := tget {} was.loops n
        let kept (now before : Bool) (i : Nat) : Bool := bitAt v i && (before || !now)
        exec (.loCmdWrite r n v) s = .next ((u.setLout n (loopTakes l v)).fwMark 17 (0x100 + 0x10 * n.val)) ∧
        (let z := loopCarried l
         let c := kept l.compliance w.compliance 0
         let y : LoopOut := { z with compliance := z.compliance && !c, pois := z.pois && !kept l.pois w.pois 1, opn := z.opn && !kept l.opn w.opn 2 }
         exec (.loStatClear r n v) s = .next (u.setLout n (if z.compliance = true ∧ c = true then
           { y with dropped := false, applied := max 3500 (min l.cmd.toNat 22000), shorts := 0, allLow := true, skip := 1 } else y))) ∧
        storesTo r v s
          [(lo (0x10 * n.val + 4), u.setLout n { l with safe := v }),
           (lo (0x10 * n.val + 6), u.setLout n { loopCarried l with drop := bitAt v 0, ie := v.extractLsb' 1 3 })])) ∧
    (s.integ.safe = true → ∀ n w m, 16 * w.val < nLines s → n.val < nVouts s → m.val < nLoops s →
      exec (.ilCmdWrite r w v) s = .next u ∧ exec (.voCodeWrite r n v) s = .next u ∧ exec (.loCmdWrite r m v) s = .next u) ∧
    (∀ w : Fin 2, 16 * w.val < nLines s → readsAs r u
      [(il (2 * w.val), mapWord x.ilCmd w), (il (0x004 + 2 * w.val), mapWord x.ilIn w), (il (0x008 + 2 * w.val), mapWord x.ilSafe w),
       (il (0x00C + 2 * w.val), mapWord x.ilMis w), (il (0x010 + 2 * w.val), mapWord x.ilPois w), (il (0x014 + 2 * w.val), mapWord x.ilIe w)]) ∧
    (∀ n : Fin 16, n.val < nVouts s → readsAs r u
      [(vo 0x000, x.voRef.toNat), (vo 0x002, if x.voRefLow then 1 else 0), (vo 0x004, if x.voRefIe then 1 else 0), (vo 0x006, x.voPois.toNat),
       (vo 0x008, x.voPoisIe.toNat), (vo (0x100 + 0x10 * n.val), (tget 0x8000 x.voCode n).toNat),
       (vo (0x102 + 0x10 * n.val), (tget 0x8000 x.voSafe n).toNat)]) ∧
    (∀ n : Fin 8, n.val < nLoops s →
      let l := u.lout n
      let flag (b : Bool) (k : Nat) : Nat := if b then k else 0
      l.shorts ≤ 11 → readsAs r u
        [(lo (0x10 * n.val), l.cmd.toNat), (lo (0x10 * n.val + 2), l.meas.toNat), (lo (0x10 * n.val + 4), l.safe.toNat),
         (lo (0x10 * n.val + 6), flag l.drop 1 + l.ie.toNat * 2),
         (lo (0x10 * n.val + 8), flag l.compliance 1 + flag l.pois 2 + flag l.opn 4 + flag l.dropped 256 + l.shorts * 4096)])) ∧
  (∀ s : State,
    (feRuns s = false → exec .voutUpdate s = .next s) ∧
    (feRuns s = true → ∃ t T, exec .voutUpdate s = .next t ∧ t.io.voOut = s.io.voCode ∧ s.now ≤ 32 * T ∧
      t.now = max s.now (32 * T) ∧ t.io.voCode = s.io.voCode ∧ t.io.ports = s.io.ports ∧ t.io.loops = s.io.loops ∧
      t.wram = s.wram ∧ t.iram = s.iram ∧ t.store = s.store)) ∧
  (∀ (n : Fin 32) (s : State),
    (feRuns s = true → n.val < nLines s → tget 0 s.io.ilRun n = 32 → exec (.holdLineMismatch n) s = .next { s with io := { s.io with
      ilRun := tput 0 s.io.ilRun n 33, ilMis := s.io.ilMis ||| (1#32 <<< n.val) } }) ∧
    (feRuns s = false ∨ tget 0 s.io.ilRun n ≠ 32 → exec (.holdLineMismatch n) s = .next s)) ∧
  (∀ (n : Fin 8) (s : State),
    (feRuns s = false ∨ nLoops s ≤ n.val → exec (.compliance n) s = .next s) ∧
    (feRuns s = true → n.val < nLoops s → exec (.compliance n) s = .next (s.setLout n (loopCarried (s.lout n))))) ∧
  (∀ (m : TickIn) (s : State),
    (tickInOk m = false → exec (.tick m) s = .refused (.illFormed "TICK")) ∧
    (tickInOk m = true → s.rst.porHeld = true → exec (.tick m) s = .next s) ∧
    (tickInOk m = true → s.rst.porHeld = false → s.pwr.unlockAt = none → s.rst.heldByNrst = false → ∃ t, exec (.tick m) s = .next t ∧
      t.pwr.holdup = BitVec.ofNat 16 m.holdup ∧ t.pwr.tj = m.tj ∧
      ((∀ k ∈ s.fw, k ≠ fwKey 2 0x016 0) → t.pwr.tjMax = (if s.pwr.tjMax.toInt < m.tj.toInt then m.tj else s.pwr.tjMax)) ∧
      (feRuns s = true → ∀ n, n < nLoops s →
        let z := loopCarried (s.lout n)
        let ua := nth 0 m.loop n
        let y : LoopOut := { z with meas := BitVec.ofNat 16 ua }
        (0 < z.skip → t.lout n = { y with skip := z.skip - 1 }) ∧
        (z.skip = 0 → z.applied ≤ ua + 50 → t.lout n = { y with shorts := 0, allLow := true }) ∧
        (z.skip = 0 → ua + 50 < z.applied →
          let low := z.allLow && decide (ua < 500)
          t.lout n = { y with shorts := min 11 (z.shorts + 1), allLow := low, due := if z.shorts = 10 then some low else none })) ∧
      (feRuns s = true → s.ce.run = true → s.ce.expired = [] → (s.ce.insts.map (·.1)).Nodup → ∀ i, (s.chm i).en = true →
        (t.chm i).t0.toNat = (s.chm i).t0.toNat - 1 ∧ (t.chm i).t1.toNat = (s.chm i).t1.toNat - 1) ∧
      t.wram = s.wram ∧ t.iram = s.iram ∧ t.store = s.store ∧ s.now ≤ t.now)) ∧
  (∀ (s : State) (avdd ref : Nat), s.pwr.extest = false → s.rst.porHeld = false →
    (∀ p, p < nPods s → 2450 ≤ avdd → avdd ≤ 2550 → ballDrive s avdd ref (.gd p) = .volts ((avdd : Rat) / 2)) ∧
    (∀ p, p < nPairs s → (s.pfe p).st = .off → ballDrive s avdd ref (.exp p) = .volts 0 ∧ ballDrive s avdd ref (.exn p) = .volts 0) ∧
    (∀ n, n < nLines s → ballDrive s avdd ref (.il n) = if bitAt s.io.ilCmd n then .low else .hiZ) ∧
    (∀ n, n < nVouts s → ballDrive s avdd ref (.vout n) = .volts ((ref : Rat) * ((tget 0x8000 s.io.voOut n).toInt + 32768 : Int) / 65536)) ∧
    (∀ n, n < nLoops s → ballDrive s avdd ref (.loop n) = .sinks (s.lout n).applied))

/-- The answers that both links give to stream, locket, class, output and sensitivity requests, byte by byte, and their error codes. -/
def Obligations.LinkAnswersCarryWhatTheHubHolds : Prop :=
  ∀ (s : State) (a : List Byte),
    let num (bs : List Byte) (i n : Nat) : Nat := beNat ((bs.drop i).take n)
    let n := byteAt a 0
    let st := s.strm n
    let W := strmWrap st
    (∃ bs, streamStat s n = (.ok bs false, s.setStrm n { st with seen := true }) ∧ bs.length = 21 ∧ num bs 0 1 = n ∧
      num bs 1 2 = dctrlRead st ∧ num bs 3 2 = dstatRead st ∧ num bs 5 4 = st.head % 2 ^ 32 ∧ num bs 9 4 = st.tail % 2 ^ 32 ∧
      num bs 13 4 = strmLevel st % 2 ^ 32 ∧ num bs 17 4 = st.wm.toNat) ∧
    (let words (port base cnt hd : Nat) (r : LinkRes × State) (head : List Byte → Prop) : Prop :=
       (cnt ≠ 0 → portBlocked s port = true → r = (.err 8 s.arb.block.toNat, s)) ∧
       (cnt = 0 ∨ portBlocked s port = false → ∃ bs bad, r.1 = .ok bs bad ∧ head bs ∧ num bs hd 1 = cnt ∧
         (bad = true ↔ ∃ i, i < cnt ∧ storePois s (base + i) = true) ∧
         bs.length = hd + 1 + 2 * cnt + (if bad then (cnt + 7) / 8 else 0) ∧
         (∀ i, i < cnt → num bs (hd + 1 + 2 * i) 2 = (storeWord s (base + i)).toNat) ∧
         (bad = true → ∀ i, i < cnt → bitAt (nth 0 bs (hd + 1 + 2 * cnt + i / 8)) (i % 8) = storePois s (base + i)) ∧
         r.2 = { s with ss := { s.ss with elog := r.2.ss.elog, elogOvf := r.2.ss.elogOvf, flt := r.2.ss.flt } })
     (a.length = 6 → ∀ port, port < 11 →
       let pos := num a 1 4
       let mx := byteAt a 5
       let r := streamRead s port a
       (mx = 0 ∨ 108 < mx → r = (.err 3 5, s)) ∧
       (1 ≤ mx → mx ≤ 108 → st.armed = false → r = (.err 7 n, s)) ∧
       (1 ≤ mx → mx ≤ 108 → st.armed = true →
         (W ≤ pos ∨ strmLevel st < posDiff W pos st.tail →
           r = (if posDiff W pos st.head < W / 2 then .err 6 (st.head % 65536) else .err 5 (st.tail % 65536), s)) ∧
         (pos < W → posDiff W pos st.tail ≤ strmLevel st →
           words port (posWord s st pos) (min mx (min (posDiff W st.head pos) (2048 - pos % 2048))) 5 r
             (fun bs => num bs 0 1 = n ∧ num bs 1 4 = pos)))) ∧
     (a.length = 4 → ∀ port, port < 11 →
       let w := num a 1 2
       let mx := byteAt a 3
       let r := locketRead s port a
       (15 < n → r = (.err 3 0, s)) ∧ (n ≤ 15 → 2047 < w → r = (.err 3 1, s)) ∧
       (n ≤ 15 → w ≤ 2047 → mx = 0 ∨ 108 < mx → r = (.err 3 3, s)) ∧
       (n ≤ 15 → w ≤ 2047 → 1 ≤ mx → mx ≤ 108 → words port (n * 2048 + w) (min mx (2048 - w)) 3 r
         (fun bs => num bs 0 1 = n ∧ num bs 1 2 = w)))) ∧
    (a.length = 5 →
      (st.armed = false → streamAck s a = (.err 7 n, s)) ∧
      (st.armed = true → ∃ bs u, streamAck s a = (.ok bs false, s.setStrm n u) ∧ bs.length = 7 ∧ num bs 0 1 = n ∧
        num bs 1 4 = u.tail % 2 ^ 32 ∧ num bs 5 2 = dstatRead u ∧
        (let before := ((tget {} s.was.ss.streams n) : Stream).tail
         if st.movedAt = s.cyc + 1 ∧ num a 1 4 < W ∧ posDiff W (num a 1 4) before < posDiff W st.tail before then u = st
         else if num a 1 4 < W ∧ posDiff W (num a 1 4) st.tail ≤ strmLevel st then u.tail = num a 1 4 ∧ u.head = st.head ∧ u.tailErr = st.tailErr
         else u = { st with tailErr := true }))) ∧
    ((classBytes s).length = 8 ∧ ∀ p, p < 32 →
      (nth 0 (classBytes s) (p / 4)).toNat / 4 ^ (p % 4) % 4 = if p < nPods s then s.ce.classes.toNat / 4 ^ p % 4 else 0) ∧
    (a.length = 3 →
      let f := byteAt a 1
      let c := byteAt a 2
      let top := if n = 1 then 16 else 8
      let present := if n = 1 then nVouts s else nLoops s
      let r := outputRead s a
      (n = 0 → ∃ bs, r = .ok bs false ∧ bs.length = 8 ∧ num bs 0 2 = s.io.ilCmd.toNat % 65536 ∧ num bs 2 2 = s.io.ilCmd.toNat / 65536 ∧
        num bs 4 2 = s.io.ilIn.toNat % 65536 ∧ num bs 6 2 = s.io.ilIn.toNat / 65536) ∧
      (2 < n → r = .err 3 0) ∧ (n = 1 ∨ n = 2 → top ≤ f → r = .err 3 1) ∧
      (n = 1 ∨ n = 2 → f < top → c = 0 ∨ top < f + c → r = .err 3 2) ∧
      (n = 1 ∨ n = 2 → f < top → 1 ≤ c → f + c ≤ top → present < f + c → r = .err 9 (max f present)) ∧
      (n = 1 → 1 ≤ c → f + c ≤ nVouts s → ∃ bs, r = .ok bs false ∧ bs.length = 2 * c ∧
        ∀ i, i < c → num bs (2 * i) 2 = (tget 0x8000 s.io.voCode (f + i)).toNat) ∧
      (n = 2 → 1 ≤ c → f + c ≤ nLoops s → ∃ bs, r = .ok bs false ∧ bs.length = 4 * c ∧
        ∀ i, i < c → num bs (4 * i) 2 = (s.lout (f + i)).cmd.toNat ∧ num bs (4 * i + 2) 2 = (s.lout (f + i)).meas.toNat)) ∧
    (a.length = 2 →
      let c := byteAt a 1
      let r := sensRead s a
      (32 ≤ n → r = .err 3 0) ∧ (n < 32 → c = 0 ∨ 32 < n + c → r = .err 3 1) ∧
      (n < 32 → 1 ≤ c → n + c ≤ 32 → nPods s < n + c → r = .err 9 (max n (nPods s))) ∧
      (1 ≤ c → n + c ≤ nPods s → ∃ bs, r = .ok bs false ∧ bs.length = 2 + 4 * c ∧ num bs 0 1 = n ∧ num bs 1 1 = c ∧
        ∀ i, i < c → num bs (2 + 4 * i) 2 = (tget 0 s.fe.sensA (n + i)).toNat ∧ num bs (4 + 4 * i) 2 = (tget 0 s.fe.sensG (n + i)).toNat))

/-- Each bench chain request addressed to the hub is counted, executed, answered and recorded once; MAIL waits, CALL schedules a notice;
a request that needs a stopped unit waits for relock (which requests: model's choice, log 64). -/
def Obligations.ChainRequestsAreAnswered : Prop :=
  ∀ (h : BcHdr) (pl : List Byte) (s : State),
    let all : List (Instr × Nat × Nat × Nat) := [(.bcPoll h pl, 1, 0, 0), (.bcStatus h pl, 2, 0, 0), (.bcStreamStat h pl, 3, 1, 1),
      (.bcStreamRead h pl, 4, 6, 6), (.bcStreamAck h pl, 5, 5, 5), (.bcClassRead h pl, 6, 0, 0), (.bcOutputRead h pl, 7, 3, 3),
      (.bcSensRead h pl, 8, 2, 2), (.bcMail h pl, 9, 1, 239), (.bcLocketRead h pl, 0x0A, 4, 4), (.bcImgWrite h pl, 0x0B, 4, 131),
      (.bcWake h pl, 0x0E, 0, 0), (.bcReset h pl, 0x0F, 2, 2), (.bcCall h pl, 0x10, 2, 2)]
    let mine := linksAnswer s = true ∧ h.src ≠ 0xFF ∧ h.dest ≠ 0xFF ∧ h.dest.toNat = s.bc.addr.toNat ∧
      ∀ e ∈ bcWindow s h.src, e.seq ≠ h.seq
    let served (type : Nat) : Prop := (s.pwr.st ≠ .sleep ∨ type = 1 ∨ type = 2 ∨ type = 0x0E) ∧
      ((s.rst.loaded = true ∧ s.integ.safe = false ∧ s.integ.hallmark ≠ 3) ∨ type = 1 ∨ type = 2 ∨ type = 0x0A ∨ type = 0x0E)
    let clocked (type : Nat) : Prop := served type ∧ s.pwr.unlockAt = none
    let heard : State := { s with bc := { s.bc with
      reqCnt := (if s.fwWrote 18 0x022 then s.bc.reqCnt else s.bc.reqCnt + 1), windows := (bcHeard s h.src).bc.windows, stat := (bcHeard s h.src).bc.stat } }
    let recorded (t : State) (type : Nat) (rt : Byte) (rp : List Byte) : Prop := bcWindow t h.src =
      (⟨h.seq, crc16 (frameBody h.dest.toNat h.src.toNat h.seq (BitVec.ofNat 8 type) pl), rt, rp⟩ :: bcWindow s h.src).take 32
    let answers (c : Instr) (type : Nat) (reads resets wakes : Bool) (r : LinkRes × State) : Prop := ∃ t rt rp ok, exec c s = .next t ∧
      t.bc.reply = some { dest := h.src, seq := h.seq, type := rt, payload := rp,
                          reads := reads && ok, resets := resets && ok, wakes := wakes && ok } ∧ recorded t type rt rp ∧
      (∀ bs p, r.1 = .ok bs p → ok = true ∧ rt = BitVec.ofNat 8 (type + 0x80) ∧ ∃ b, rp = b :: bs ∧ bitAt b 0 = false ∧
        (bitAt b 1 = true ↔ bcWindow s h.src = []) ∧ bitAt b 2 = false ∧ bitAt b 3 = p ∧ bitAt b 5 = s.integ.safe ∧ bitAt b 6 = s.bc.lowRate) ∧
      (∀ code d, r.1 = .err code d → ok = false ∧ rt = 0xFF ∧ ∃ b, rp = [b, BitVec.ofNat 8 type, BitVec.ofNat 8 code,
        BitVec.ofNat 8 (d / 256), BitVec.ofNat 8 d]) ∧
      t = { r.2 with bc := { r.2.bc with reply := t.bc.reply, windows := t.bc.windows } }
    let plain (bs : List Byte) : LinkRes := .ok bs false
    let stateByte : Byte := BitVec.ofNat 8 ((match s.pwr.st with | .run => 0 | .doze => 1 | .sleep => 2) + s.integ.hallmark.toNat * 4)
    (∀ x ∈ all, (240 < pl.length → ∃ name, exec x.1 s = .refused (.illFormed name)) ∧
      (pl.length ≤ 240 → linksAnswer s = false ∨ h.src = 0xFF ∨ (h.dest ≠ 0xFF ∧ h.dest.toNat ≠ s.bc.addr.toNat) → exec x.1 s = .next s) ∧
      (pl.length ≤ 240 → h.dest = 0xFF → x.2.1 ≠ 0x0E → x.2.1 ≠ 0x10 → exec x.1 s = .next s) ∧
      (pl.length ≤ 240 → mine →
        (¬ served x.2.1 → answers x.1 x.2.1 false false false (.err 4 stateByte.toNat, heard)) ∧
        (served x.2.1 → pl.length < x.2.2.1 ∨ x.2.2.2 < pl.length → answers x.1 x.2.1 false false false (.err 2 pl.length, heard)) ∧
        (served x.2.1 → 3 ≤ x.2.1 → x.2.1 ≤ 0x0A → x.2.2.1 ≤ pl.length → pl.length ≤ x.2.2.2 → s.pwr.unlockAt.isSome = true →
          exec x.1 s = .next { s with bc := { s.bc with held := s.bc.held ++ [⟨h, x.2.1, pl⟩] } }))) ∧
    (pl.length ≤ 240 → mine →
      (pl = [] → answers (.bcPoll h pl) 1 false false false (plain (stateByte :: beBytes (bcNotice s) 2), heard) ∧
        answers (.bcStatus h pl) 2 false false false
          (plain (statusBytes s (bcNotice s)), { heard with bc := { heard.bc with 
            resetSince := false, noticeFw := if s.fwWrote 18 0x008 then s.bc.noticeFw else 0 } }) ∧
        answers (.bcWake h pl) 0x0E false false (s.pwr.st == .sleep) (plain [stateByte], if s.pwr.st = .sleep then { heard with
          bc := { heard.bc with stat := heard.bc.stat ||| 8, wakeReq := true },
          pwr := { s.pwr with wake := some (s.pwr.wake.getD (2, 0)) } } else heard) ∧
        (clocked 6 → answers (.bcClassRead h pl) 6 false false false (plain (classBytes s), heard))) ∧
      (clocked 3 → pl.length = 1 → answers (.bcStreamStat h pl) 3 false false false (streamStat heard (byteAt pl 0))) ∧
      (clocked 4 → pl.length = 6 → answers (.bcStreamRead h pl) 4 true false false (streamRead heard 6 pl)) ∧
      (clocked 5 → pl.length = 5 → answers (.bcStreamAck h pl) 5 false false false (streamAck heard pl)) ∧
      (clocked 7 → pl.length = 3 → answers (.bcOutputRead h pl) 7 false false false (outputRead s pl, heard)) ∧
      (clocked 8 → pl.length = 2 → answers (.bcSensRead h pl) 8 false false false (sensRead s pl, heard)) ∧
      (clocked 0x0A → pl.length = 4 → answers (.bcLocketRead h pl) 0x0A true false false (locketRead heard 6 pl)) ∧
      (served 0x0B → 4 ≤ pl.length → pl.length ≤ 131 → answers (.bcImgWrite h pl) 0x0B false false false (imgWriteLink heard .chain pl)) ∧
      (served 0x0F → pl.length = 2 → answers (.bcReset h pl) 0x0F false true false
        (if pl = [0xC3, 0x3C] then plain [] else .err 10 0, heard)) ∧
      (clocked 9 → 1 ≤ pl.length → pl.length ≤ 239 →
        (∀ m, s.bc.mail = some m → answers (.bcMail h pl) 9 false false false
          (.err 11 m.seq.toNat, { heard with bc := { heard.bc with stat := heard.bc.stat ||| 0x40 } })) ∧
        (s.bc.mail = none → ∃ t, exec (.bcMail h pl) s = .next t ∧ recorded t 9 0 [] ∧ t.bc.reply = s.bc.reply ∧
          (∃ fresh, t.bc.mail = some ⟨h.src, h.seq, true, fresh⟩ ∧ (fresh = true ↔ bcWindow s h.src = [])) ∧ bitAt t.bc.stat 0 = true ∧
          mailBytes t.bc.mailRx pl.length = pl ∧ t.bc.mailSeq = h.seq ∧ t.bc.mailUntil = s.now + usCycles (min 38 s.bc.mailWait.toNat) ∧
          t.bc.mailRxLen = h.src ++ BitVec.ofNat 8 pl.length ∧
          t = { s with bc := t.bc })) ∧
      (served 0x10 → ∀ a n, pl = [a, n] →
        (n = 0 ∨ 32 < n.toNat → answers (.bcCall h pl) 0x10 false false false (.err 3 1, heard)) ∧
        (1 ≤ n.toNat → n.toNat ≤ 32 → ∃ t, exec (.bcCall h pl) s = .next t ∧ recorded t 0x10 0xFE [] ∧
          t = { heard with bc := { heard.bc with windows := t.bc.windows, notice := t.bc.notice } } ∧
          (let called := s.bc.callEn = true ∧ a.toNat ≤ s.bc.addr.toNat ∧ s.bc.addr.toNat < a.toNat + n.toNat ∧
             bcNotice s &&& s.bc.noticeMask.toNat ≠ 0
           (¬ called → t.bc.notice = s.bc.notice) ∧
           (called → ∃ b, t.bc.notice =
             some { dest := h.src, seq := 0, type := 0x90, payload := b :: stateByte :: beBytes (bcNotice s) 2 })))) ∧
      (∀ type, unknownType type = true →
        (type.toNat < 0x80 → answers (.bcUnknownType h type pl) type.toNat false false false (.err 1 0, heard)) ∧
        (0x80 ≤ type.toNat → exec (.bcUnknownType h type pl) s = .next s)))

/-- A repeated chain request is answered from the window and not executed again; replies, notices and mail replies are sent once (that
BC_NSEQ wraps is the model's choice, log 63); the BC_ registers store and read by their fields. -/
def Obligations.ChainLinkRepeatsSendsAndMails : Prop :=
  (∀ (h : BcHdr) (pl : List Byte) (s : State) (e : WinEntry), pl.length ≤ 240 → linksAnswer s = true → h.src ≠ 0xFF → h.dest ≠ 0xFF →
    h.dest.toNat = s.bc.addr.toNat → (bcWindow s h.src).find? (fun x => x.seq == h.seq) = some e →
    ∀ x ∈ [(Instr.bcPoll h pl, 1), (.bcStatus h pl, 2), (.bcStreamStat h pl, 3), (.bcStreamRead h pl, 4), (.bcStreamAck h pl, 5),
        (.bcClassRead h pl, 6), (.bcOutputRead h pl, 7), (.bcSensRead h pl, 8), (.bcMail h pl, 9), (.bcLocketRead h pl, 0x0A),
        (.bcImgWrite h pl, 0x0B), (.bcWake h pl, 0x0E), (.bcReset h pl, 0x0F), (.bcCall h pl, 0x10)],
      let same := e.crc = crc16 (frameBody h.dest.toNat h.src.toNat h.seq (BitVec.ofNat 8 x.2) pl)
      ∃ t, exec x.1 s = .next t ∧ t = { s with bc := t.bc } ∧ t.bc.reqCnt = s.bc.reqCnt ∧
        t.bc.dupCnt = (if same then bump s 18 0x024 s.bc.dupCnt 1 else s.bc.dupCnt) ∧
        (¬ same → bitAt t.bc.stat 2 = true ∧ bcWindow t h.src = bcWindow s h.src ∧
          ∃ b, t.bc.reply = some { dest := h.src, seq := h.seq, type := 0xFF, payload := [b, BitVec.ofNat 8 x.2, 13, 0, 0] }) ∧
        (same → e.type = 0xFE → t.bc.reply = s.bc.reply ∧ bcWindow t h.src = bcWindow s h.src) ∧
        (∀ b bs, same → e.type ≠ 0xFE → e.type ≠ 0 → e.payload = b :: bs → bcWindow t h.src = bcWindow s h.src ∧
          ∃ b', t.bc.reply = some { dest := h.src, seq := h.seq, type := e.type, payload := b' :: bs } ∧ bitAt b' 0 = true ∧
            bitAt b' 6 = s.bc.lowRate ∧ ∀ i, i ≠ 0 → i ≠ 6 → bitAt b' i = bitAt b i) ∧
        (same → e.type = 0 → ∃ b, bitAt b 0 = true ∧ bitAt b 2 = true ∧
          t.bc.reply = some { dest := h.src, seq := h.seq, type := BitVec.ofNat 8 (x.2 + 0x80), payload := [b] } ∧
          ∀ m, t.bc.mail = some m → m.waiting = false)) ∧
  (∀ (x : FrameErr) (s : State), exec (.bcFrameDiscard x) s = .next (
    if linksAnswer s = false ∨ s.pwr.st = .sleep ∧ x ≠ .crc then s
    else { s with bc := { s.bc with rxErr := bump s 18 0x020 s.bc.rxErr 1, stat := s.bc.stat ||| 2 } })) ∧
  (∀ (first : Bool) (s : State),
    (linksAnswer s = false ∨ s.bc.reply = none → exec (.bcReplySend first) s = .next s) ∧
    (∀ r, linksAnswer s = true → s.bc.reply = some r →
      let body := [r.dest, s.bc.addr.setWidth 8, BitVec.ofNat 8 (r.seq.toNat / 256), BitVec.ofNat 8 r.seq.toNat, r.type,
        BitVec.ofNat 8 r.payload.length] ++ r.payload
      exec (.bcReplySend first) s = .next { s with bc := { s.bc with
        reply := none, resetDue := s.bc.resetDue || r.resets, rateDue := if r.wakes then some s.now else s.bc.rateDue,
        sent := if first then s.bc.sent else [0x55, 0xD5] ++ body ++ [BitVec.ofNat 8 ((crc16 body).toNat / 256), BitVec.ofNat 8 (crc16 body).toNat] } })) ∧
  (∀ s : State,
    (linksAnswer s = false ∨ s.bc.notice = none → exec .bcNoticeSend s = .next s) ∧
    (∀ r, linksAnswer s = true → s.bc.notice = some r → ∃ f, exec .bcNoticeSend s =
      .next { s with bc := { s.bc with notice := none, nseq := s.bc.nseq + 1, sent := f } } ∧
      f = frameBytes r.dest.toNat s.bc.addr.toNat s.bc.nseq r.type r.payload ∧ f.length = r.payload.length + 10) ∧
    (∀ t, s.bc.rateDue = some t → t + 196608 ≤ s.now → s.pwr.st ≠ .sleep → exec .bcRateSwitch s = .next { s with bc := { s.bc with lowRate := false, rateDue := none } }) ∧
    ((∀ t, s.bc.rateDue = some t → s.now < t + 196608) ∨ s.pwr.st = .sleep → exec .bcRateSwitch s = .next s)) ∧
  (let mailed (u t : State) (m : Mail) (pend : Bool) (bs : List Byte) (left : Option Mail) : Prop :=
     ∃ b, (bitAt b 1 = m.fresh) ∧ (bitAt b 2 = pend) ∧
       bcWindow t m.src = (bcWindow u m.src).map (fun e => if e.seq = m.seq then { e with type := 0x89, payload := b :: bs } else e) ∧
       t.bc.reply = (if m.waiting then some { dest := m.src, seq := m.seq, type := 0x89, payload := b :: bs } else u.bc.reply) ∧
       t = { u with bc := { u.bc with mail := left, reply := t.bc.reply, windows := t.bc.windows } }
   (∀ (r : Req) (v : Word) (s : State), mayWrite s r = true →
     let u := reqWaits s r
     (u.bc.mail = none → exec (.bcMailGo r v) s = .next u) ∧
     (∀ m, u.bc.mail = some m → ∃ t, exec (.bcMailGo r v) s = .next t ∧
       mailed u t m false ((List.range (min 239 (v.toNat % 256))).map (fun i =>
         (tget 0 u.bc.mailTx (i / 2)).extractLsb' (8 * (i % 2)) 8)) none) ∧
     exec (.bcWinClr r v) s = .next (if bitAt v 0 then { u with bc := { u.bc with windows := [] } } else u) ∧
     (let b := u.bc
      let a (o : Nat) : W32 := BitVec.ofNat 32 (0x40012000 + o)
      let put (x : Bc) : State := { u with bc := x }
      storesTo r v s
        [(a 0x002, put { b with callEn := bitAt v 0 }), (a 0x004, put { b with stat := cleared b.stat s.was.bc.stat v }),
         (a 0x006, put { b with ie := v.setWidth 7 }), (a 0x008, (put { b with noticeFw := v.setWidth 8 }).fwMark 18 0x008),
         (a 0x00C, put { b with noticeMask := v }), (a 0x00E, put { b with mailWait := v.setWidth 6 }),
         (a 0x020, (put { b with rxErr := v }).fwMark 18 0x020), (a 0x022, (put { b with reqCnt := v }).fwMark 18 0x022),
         (a 0x024, (put { b with dupCnt := v }).fwMark 18 0x024)] ∧
      readsAs r u
        [(a 0x000, b.addr.toNat), (a 0x002, if b.callEn then 1 else 0),
         (a 0x004, b.stat.toNat + (if b.lowRate then 256 else 0) + (if b.mail.isSome then 512 else 0)), (a 0x006, b.ie.toNat),
         (a 0x008, b.noticeFw.toNat), (a 0x00C, b.noticeMask.toNat), (a 0x00E, b.mailWait.toNat), (a 0x010, b.mailRxLen.toNat),
         (a 0x012, b.mailSeq.toNat), (a 0x020, b.rxErr.toNat), (a 0x022, b.reqCnt.toNat), (a 0x024, b.dupCnt.toNat), (a 0x026, b.nseq.toNat)] ∧
      ∀ i : Fin 120, storesTo r v s [(a (0x200 + 2 * i.val), put { b with mailTx := tput 0 b.mailTx i v })] ∧
        readsAs r u [(a (0x200 + 2 * i.val), (tget 0 b.mailTx i).toNat), (a (0x100 + 2 * i.val), (tget 0 b.mailRx i).toNat)])) ∧
   (∀ s : State,
     (∀ m, linksAnswer s = true → s.bc.mail = some m → m.waiting = true → s.bc.mailUntil ≤ s.now →
       ∃ t, exec .bcMailWaitExpiry s = .next t ∧ mailed s t m true [] (some { m with waiting := false })) ∧
     ((linksAnswer s = false ∨ ∀ m, s.bc.mail = some m → m.waiting = false ∨ s.now < s.bc.mailUntil) →
       exec .bcMailWaitExpiry s = .next s)))

/-- Each two-wire read is answered with TWSTAT, its data, its length or padding and a check byte, and 0xFF past its end; STATUS and
RESULT go by their tags; a read that needs a stopped unit waits for relock (which reads: model's choice, log 64). -/
def Obligations.TwoWireReadsAreAnswered : Prop :=
  ∀ (a : List Byte) (s : State),
    let answersAddr := linksAnswer s = true ∧ s.pwr.st ≠ .sleep ∧ s.tw.stopWait = false
    let masked : Word := BitVec.ofNat 16 (twNotice s) &&& s.tw.alertMask
    let settled : State := { s with tw := { s.tw with
      alert := (s.tw.alert && (s.integ.safe || masked != 0)) || (masked &&& ~~~s.tw.alertSeen) != 0, alertSeen := masked } }
    let u : State := { settled with tw := { settled.tw with acked := true } }
    let n : State := { u with tw := { u.tw with cmdCnt := if s.fwWrote 19 0x022 then u.tw.cmdCnt else u.tw.cmdCnt + 1 } }
    let limited := s.rst.loaded = false ∨ s.integ.safe = true ∨ s.integ.hallmark = 3
    let runs := s.pwr.unlockAt = none
    let addrByte : Byte := BitVec.ofNat 8 (0x80 + 2 * s.tw.addr.toNat)
    let sent (resp : List Byte) (cmd : Byte) (fixed : Option Nat) (body : List Byte) : Prop :=
      let r := match fixed with
        | some k => body ++ List.replicate (k - body.length) 0xFF
        | none => BitVec.ofNat 8 body.length :: body
      resp = r ++ [crc8 ([addrByte, cmd] ++ a ++ [addrByte ||| 1] ++ r)]
    let bodyOf (body : List Byte) (fresh : Bool) (r : LinkRes) : Prop :=
      ∃ b, bitAt b 0 = false ∧ bitAt b 1 = fresh ∧ bitAt b 2 = false ∧ (bitAt b 4 = true ↔ masked ≠ 0) ∧ bitAt b 5 = s.integ.safe ∧
        (∀ bs p, r = .ok bs p → body = b :: bs ∧ bitAt b 3 = p ∧ bitAt b 6 = false) ∧
        (∀ c d, r = .err c d → body = [b, BitVec.ofNat 8 c, BitVec.ofNat 8 (d / 256), BitVec.ofNat 8 d] ∧ bitAt b 6 = true)
    let reads (c : Instr) (cmd : Byte) (fixed : Option Nat) (port7 : Bool) (r : LinkRes × State) : Prop :=
      ∃ t body, exec c s = .next t ∧ bodyOf body false r.1 ∧ sent t.tw.resp cmd fixed body ∧
        t = { r.2 with tw := { r.2.tw with resp := t.tw.resp, reading := match r.1 with
          | .ok _ _ => if port7 then some (cmd, a) else none
          | .err _ _ => none } }
    let plain (bs : List Byte) : LinkRes := .ok bs false
    let st : Nat := (match s.pwr.st with | .run => 0 | .doze => 1 | .sleep => 2) + s.integ.hallmark.toNat * 4
    let all : List (Instr × Byte × Nat × Option Nat) := [(.twPoll a, 0x01, 0, some 4), (.twStatus a, 0x02, 1, none),
      (.twStreamStat a, 0x03, 1, some 22), (.twStreamRead a, 0x04, 6, none), (.twClassRead a, 0x06, 0, some 9), (.twOutputRead a, 0x07, 3, none),
      (.twSensRead a, 0x08, 2, none), (.twLocketRead a, 0x0A, 4, none), (.result a, 0x20, 1, none), (.lastErr a, 0x21, 0, some 5)]
    (∀ x ∈ all,
      (¬ answersAddr → exec x.1 s = .next { s with tw := { s.tw with acked := false } }) ∧
      (answersAddr → x.2.2.1 < a.length → exec x.1 s = .next { settled with tw := { settled.tw with
        acked := false, stat := settled.tw.stat ||| 0x10, lastErr := (x.2.1, 2, BitVec.ofNat 16 a.length) } }) ∧
      (answersAddr → a.length < x.2.2.1 → ∃ t body, exec x.1 s = .next t ∧ bodyOf body false (.err 2 a.length) ∧
        sent t.tw.resp x.2.1 x.2.2.2 body ∧
        t = { settled with tw := { settled.tw with stat := settled.tw.stat ||| 0x10, resp := t.tw.resp, reading := none } })) ∧
    (answersAddr →
      (a.length = 0 →
        reads (.twPoll a) 0x01 (some 4) false (plain (BitVec.ofNat 8 st :: beBytes (twNotice s) 2), n) ∧
        reads (.lastErr a) 0x21 (some 5) false
          (plain ([s.tw.lastErr.1, s.tw.lastErr.2.1] ++ beBytes s.tw.lastErr.2.2.toNat 2), n) ∧
        (¬ limited → runs → reads (.twClassRead a) 0x06 (some 9) false (plain (classBytes s), n)) ∧
        (limited → reads (.twClassRead a) 0x06 (some 9) false (.err 4 st, n))) ∧
      (a.length = 1 → (¬ limited → runs → reads (.twStreamStat a) 0x03 (some 22) false (streamStat n (byteAt a 0))) ∧
        (limited → reads (.twStreamStat a) 0x03 (some 22) false (.err 4 st, n))) ∧
      (a.length = 6 → (¬ limited → runs → reads (.twStreamRead a) 0x04 none true (streamRead n 7 a)) ∧
        (limited → reads (.twStreamRead a) 0x04 none true (.err 4 st, n))) ∧
      (a.length = 3 → (¬ limited → runs → reads (.twOutputRead a) 0x07 none false (outputRead s a, n)) ∧
        (limited → reads (.twOutputRead a) 0x07 none false (.err 4 st, n))) ∧
      (a.length = 2 → (¬ limited → runs → reads (.twSensRead a) 0x08 none false (sensRead s a, n)) ∧
        (limited → reads (.twSensRead a) 0x08 none false (.err 4 st, n))) ∧
      (a.length = 4 → runs → reads (.twLocketRead a) 0x0A none true (locketRead n 7 a)) ∧
      (∀ tag, a = [tag] →
        (tag = 0 → ∃ t body, exec (.twStatus a) s = .next t ∧ bodyOf body (s.tw.window == []) (.err 16 0) ∧ sent t.tw.resp 0x02 none body ∧
          t = { u with tw := { u.tw with resp := t.tw.resp, reading := none } }) ∧
        (tag ≠ 0 → (∀ e ∈ s.tw.window, e.tag ≠ tag) → ∃ t body, exec (.twStatus a) s = .next t ∧
          bodyOf body (s.tw.window == []) (plain (statusBytes s (twNotice s))) ∧ sent t.tw.resp 0x02 none body ∧
          t = { n with tw := { n.tw with
            alert := false, resetSince := false, noticeFw := (if s.fwWrote 19 0x008 then s.tw.noticeFw else 0), resp := t.tw.resp, reading := none,
            window := ({ tag := tag, cmd := 0x02, crc := crc16 [0x02], res := body } :: s.tw.window).take 32 } }) ∧
        (∀ e, tag ≠ 0 → s.tw.window.find? (fun x => x.tag == tag) = some e →
          (¬ (e.cmd = 0x02 ∧ e.crc = crc16 [0x02]) → reads (.twStatus a) 0x02 none false
            (.err 17 tag.toNat, { u with tw := { u.tw with stat := u.tw.stat ||| 4 } })) ∧
          (∀ b bs, e.cmd = 0x02 → e.crc = crc16 [0x02] → e.res = b :: bs → ∃ t, exec (.twStatus a) s = .next t ∧
            sent t.tw.resp 0x02 none ((b ||| 1) :: bs) ∧ t.tw.dupCnt = bump s 19 0x024 s.tw.dupCnt 1 ∧ t.tw.cmdCnt = s.tw.cmdCnt ∧
            t = { s with tw := t.tw }) ∧
          (∀ b bs, e.res = b :: bs → ∃ t, exec (.result a) s = .next t ∧
            sent t.tw.resp 0x20 none ((if e.dup then b ||| 1 else b &&& 0xFE) :: e.tag :: e.cmd :: bs) ∧
            t = { n with tw := { n.tw with resp := t.tw.resp, reading := none } })) ∧
        ((∀ e ∈ s.tw.window, e.tag ≠ tag) → reads (.result a) 0x20 none false (.err 15 tag.toNat, n)))) ∧
    (∀ x ∈ all, x.2.1 = 0x0A ∨ ¬ limited ∧ (3 ≤ x.2.1.toNat ∧ x.2.1.toNat ≤ 8) → answersAddr → a.length = x.2.2.1 → s.pwr.unlockAt.isSome = true →
      exec x.1 s = .next { u with tw := { u.tw with held := s.tw.held ++ [(x.2.1.toNat, a)] } }) ∧
    (∀ i, twReadByte s i = if i < s.tw.resp.length then nth 0 s.tw.resp i else 0xFF) ∧
    (∀ cmd : Byte,
      (answersAddr → (twCmds.any (fun x => x == cmd.toNat)) = true → exec (.twReadDiscard cmd) s = .next u) ∧
      (¬ answersAddr ∨ (twCmds.any (fun x => x == cmd.toNat)) = false → exec (.twReadDiscard cmd) s = .next s))

/-- A two-wire write is taken with a right check byte, executed once for its tag and recorded; mail, reset, alert, time-out and errors;
a write that needs a stopped unit waits for relock (which writes: model's choice, log 64); the TW_ registers. -/
def Obligations.TwoWireWritesAlertAndErrors : Prop :=
  (∀ (a : List Byte) (pec : Option Byte) (s : State),
    let answersAddr := linksAnswer s = true ∧ s.pwr.st ≠ .sleep ∧ s.tw.stopWait = false
    let masked : Word := BitVec.ofNat 16 (twNotice s) &&& s.tw.alertMask
    let settled : State := { s with tw := { s.tw with
      alert := (s.tw.alert && (s.integ.safe || masked != 0)) || (masked &&& ~~~s.tw.alertSeen) != 0, alertSeen := masked } }
    let u : State := { settled with tw := { settled.tw with acked := true } }
    let n : State := { u with tw := { u.tw with cmdCnt := if s.fwWrote 19 0x022 then u.tw.cmdCnt else u.tw.cmdCnt + 1 } }
    let limited := s.rst.loaded = false ∨ s.integ.safe = true ∨ s.integ.hallmark = 3
    let st : Nat := (match s.pwr.st with | .run => 0 | .doze => 1 | .sleep => 2) + s.integ.hallmark.toNat * 4
    let check (cmd : Byte) : Byte := crc8 ([BitVec.ofNat 8 (0x80 + 2 * s.tw.addr.toNat), cmd] ++ a)
    let failed (t : State) (cmd : Byte) (code detail : Nat) : State :=
      { t with tw := { t.tw with lastErr := (cmd, BitVec.ofNat 8 code, BitVec.ofNat 16 detail) } }
    let whole (cmd : Byte) : Prop := cmd = 0x05 ∧ a.length = 5 ∨ cmd = 0x0F ∧ a.length = 3 ∨
      (∃ c, a.head? = some c ∧ a.length = c.toNat + 1 ∧
        (cmd = 0x09 ∧ 2 ≤ c.toNat ∧ c.toNat ≤ 240 ∨ cmd = 0x0B ∧ 5 ≤ c.toNat ∧ c.toNat ≤ 132))
    let runs := limited ∨ s.pwr.unlockAt = none
    let got := a ++ pec.toList
    let taken (cmd : Byte) : Prop := answersAddr ∧ whole cmd ∧ (pec = some (check cmd) ∨ pec = none ∧ s.tw.pecReq = false)
    (∀ x ∈ [(Instr.twStreamAck a pec, (0x05 : Byte)), (.mailPut a pec, 0x09), (.twImgWrite a pec, 0x0B), (.twReset a pec, 0x0F)],
      (¬ answersAddr → exec x.1 s = .next { s with tw := { s.tw with acked := false } }) ∧
      (answersAddr → whole x.2 → pec = none → s.tw.pecReq = true → exec x.1 s = .next (failed u x.2 14 0)) ∧
      (∀ c, answersAddr → whole x.2 → pec = some c → c ≠ check x.2 → exec x.1 s = .next (failed { settled with tw := { settled.tw with
        acked := false, pecErr := bump s 19 0x020 s.tw.pecErr 1, stat := s.tw.stat ||| 2 } } x.2 18 0)) ∧
      (let range (c : Byte) : Prop := if x.2 = 0x09 then 2 ≤ c.toNat ∧ c.toNat ≤ 240 else 5 ≤ c.toNat ∧ c.toNat ≤ 132
       let takes (k : Nat) : Prop := x.2 = 0x05 ∧ k = 5 ∨ x.2 = 0x0F ∧ k = 3 ∨
         (x.2 = 0x09 ∨ x.2 = 0x0B) ∧ (got = [] ∧ k = 1 ∨ ∃ c, got.head? = some c ∧ range c ∧ k = c.toNat + 1)
       (∀ c, answersAddr → x.2 = 0x09 ∨ x.2 = 0x0B → got.head? = some c → ¬ range c → exec x.1 s = .next (failed { settled with tw := {
         settled.tw with acked := false, stat := s.tw.stat ||| 0x10 } } x.2 2 c.toNat)) ∧
       (∀ k, answersAddr → takes k →
         (got.length < k → exec x.1 s = .next (if s.tw.pecReq then failed u x.2 14 0 else u)) ∧
         (k + 1 < got.length →
           let right := nth 0 got k = crc8 ([BitVec.ofNat 8 (0x80 + 2 * s.tw.addr.toNat), x.2] ++ got.take k)
           exec x.1 s = .next (failed { settled with tw := { settled.tw with
             acked := false, stat := s.tw.stat ||| (if right then 0x10 else 0x12),
             pecErr := if right then s.tw.pecErr else bump s 19 0x020 s.tw.pecErr 1 } } x.2 2 (got.length - 1)))))) ∧
    (∀ x ∈ [(Instr.twStreamAck a pec, (0x05 : Byte)), (.mailPut a pec, 0x09)], taken x.2 → ¬ runs →
      exec x.1 s = .next { u with tw := { u.tw with held := s.tw.held ++ [(x.2.toNat, got)] } }) ∧
    (taken 0x05 →
      (limited → exec (.twStreamAck a pec) s = .next (failed n 0x05 4 st)) ∧
      (¬ limited → runs → exec (.twStreamAck a pec) s = .next (
        if (s.strm (byteAt a 0)).armed then n.setStrm (byteAt a 0) (tailWriteAt s (byteAt a 0) (beNat ((a.drop 1).take 4)))
        else failed n 0x05 7 (byteAt a 0)))) ∧
    (∀ x ∈ [(Instr.mailPut a pec, (0x09 : Byte), 1), (.twImgWrite a pec, 0x0B, 1), (.twReset a pec, 0x0F, 0)], taken x.2.1 → (x.2.1 = 0x09 → runs) →
      let tag := nth 0 a x.2.2
      let data := a.drop (x.2.2 + 1)
      let crc := crc16 (x.2.1 :: data)
      let entry (res : List Byte) : TagEntry := { tag := tag, cmd := x.2.1, crc := crc, res := res }
      (tag = 0 → exec x.1 s = .next (failed u x.2.1 16 0)) ∧
      (∀ e, tag ≠ 0 → s.tw.window.find? (fun y => y.tag == tag) = some e →
        (e.cmd = x.2.1 ∧ e.crc = crc → exec x.1 s = .next { u with tw := { u.tw with
          dupCnt := bump s 19 0x024 s.tw.dupCnt 1, window := s.tw.window.map (fun y => if y.tag = tag then { y with dup := true } else y) } }) ∧
        (¬ (e.cmd = x.2.1 ∧ e.crc = crc) → exec x.1 s =
          .next (failed { u with tw := { u.tw with stat := u.tw.stat ||| 4 } } x.2.1 17 tag.toNat))) ∧
      (tag ≠ 0 → (∀ e ∈ s.tw.window, e.tag ≠ tag) →
        (limited → ∃ b, bitAt b 6 = true ∧ exec x.1 s = .next (
          let t := failed n x.2.1 4 st
          { t with tw := { t.tw with window := (entry (b :: (BitVec.ofNat 8 4 :: beBytes st 2)) :: s.tw.window).take 32 } })) ∧
        (¬ limited →
          (x.2.1 = 0x0F → data ≠ [0xC3, 0x3C] → ∃ b, bitAt b 6 = true ∧ exec x.1 s = .next (
            let t := failed n x.2.1 10 0
            { t with tw := { t.tw with window := (entry [b, 10, 0, 0] :: s.tw.window).take 32 } })) ∧
          (x.2.1 = 0x0F → data = [0xC3, 0x3C] → ∃ b, bitAt b 6 = false ∧ exec x.1 s =
            .next (resetCause { n with tw := { n.tw with window := (entry [b] :: s.tw.window).take 32 } } 3)) ∧
          (x.2.1 = 0x0B → ∃ b, exec x.1 s = .next (
            let r := linkStore n .twire (beNat (data.take 3)) (data.drop 3)
            { r.2 with tw := { r.2.tw with window :=
              (entry (b :: (data.take 3 ++ [BitVec.ofNat 8 (data.drop 3).length, BitVec.ofNat 8 r.1])) :: s.tw.window).take 32 } }) ∧
            bitAt b 6 = false) ∧
          (x.2.1 = 0x09 → s.tw.mail = none → ∃ t b, exec x.1 s = .next t ∧ t.tw.mail = some tag ∧ mailBytes t.tw.mailRx data.length = data ∧
            t.tw.mailRxLen = tag ++ BitVec.ofNat 8 data.length ∧ bitAt t.tw.stat 0 = true ∧ bitAt b 2 = true ∧
            t.tw.window = (entry [b] :: s.tw.window).take 32 ∧ t = { s with tw := t.tw }) ∧
          (∀ m, x.2.1 = 0x09 → s.tw.mail = some m → ∃ b, exec x.1 s = .next (
            let t := failed { n with tw := { n.tw with stat := n.tw.stat ||| 0x20 } } x.2.1 11 m.toNat
            { t with tw := { t.tw with window := (entry (b :: BitVec.ofNat 8 11 :: beBytes m.toNat 2) :: s.tw.window).take 32 } }))))) ∧
    (∀ e : TwProto,
      (protoOk e = false → exec (.twProtocolError e) s = .refused (.illFormed "TW_PROTOCOL_ERROR")) ∧
      (protoOk e = true → ¬ answersAddr → exec (.twProtocolError e) s = .next s) ∧
      (protoOk e = true → answersAddr → ∃ t, exec (.twProtocolError e) s = .next t ∧ t.tw.stat = s.tw.stat ||| 0x10 ∧
        (∀ c, e = .unknownCmd c → t.tw.lastErr = (c, 1, 0) ∧ t.tw.acked = false) ∧
        (∀ c k, e = .badCount c k → t.tw.lastErr = (c, 2, k.setWidth 16) ∧ t.tw.acked = false) ∧
        (∀ c k, e = .extraByte c k → t.tw.lastErr = (c, 2, BitVec.ofNat 16 k) ∧ t.tw.acked = false) ∧
        (∀ c args, e = .shortArgs c args → t.tw.lastErr = s.tw.lastErr ∧ t.tw.acked = s.tw.acked ∧ ∃ b, bitAt b 6 = true ∧
          let addrByte : Byte := BitVec.ofNat 8 (0x80 + 2 * s.tw.addr.toNat)
          let body : List Byte := [b, 2, BitVec.ofNat 8 (args.length / 256), BitVec.ofNat 8 args.length]
          let pad (k : Nat) : List Byte := body ++ List.replicate (k - 4) 0xFF
          let r := if c = 0x01 then pad 4 else if c = 0x03 then pad 22 else if c = 0x06 then pad 9 else if c = 0x21 then pad 5 else 4 :: body
          t.tw.resp = r ++ [crc8 ([addrByte, c] ++ args ++ [addrByte ||| 1] ++ r)]) ∧ t = { s with tw := t.tw })) ∧
    (¬ answersAddr → exec .twSclTimeout s = .next s) ∧
    (answersAddr → exec .twSclTimeout s = .next { s with tw := { s.tw with
      stat := s.tw.stat ||| 8, timeoutCnt := bump s 19 0x026 s.tw.timeoutCnt 1, stopWait := true,
      held := s.tw.held.filter (fun x => x.1 == 0x05 || x.1 == 0x09) } }) ∧
    exec .stopCondition s = .next { s with tw := { s.tw with stopWait := false } } ∧
    exec .alertLatch s = .next settled ∧
    (∀ (others : List (BitVec 7)) (fin : Bool),
      let me := 0x40 + s.tw.addr.toNat
      let wins := answersAddr ∧ settled.tw.alert = true ∧ (∀ o ∈ others, me ≤ o.toNat) ∧ fin = true
      (¬ wins → exec (.alertResponse others fin) s = .next settled) ∧
      (wins → ∃ c, exec (.alertResponse others fin) s = .next { settled with tw := { settled.tw with
        alert := false, resp := [BitVec.ofNat 8 (2 * me), c] } }))) ∧
  (∀ (r : Req) (v : Word) (s : State), mayWrite s r = true →
    let u := reqWaits s r
    (u.tw.mail = none → exec (.twMailGo r v) s = .next u) ∧
    (∀ tag, u.tw.mail = some tag → ∃ t, exec (.twMailGo r v) s = .next t ∧ t.tw.mail = none ∧
      t.tw.window.length = u.tw.window.length ∧
      (∀ (i : Nat) e, u.tw.window[i]? = some e →
        (bitAt (nth 0 e.res 0) 2 = false → t.tw.window[i]? = some e) ∧
        (bitAt (nth 0 e.res 0) 2 = true → ∃ b, bitAt b 2 = false ∧ bitAt b 6 = false ∧ bitAt b 1 = bitAt (nth 0 e.res 0) 1 ∧
          t.tw.window[i]? = some { e with res := b :: (List.range (min 237 (v.toNat % 256))).map (fun i =>
            (tget 0 u.tw.mailTx (i / 2)).extractLsb' (8 * (i % 2)) 8) })) ∧ t = { u with tw := { u.tw with mail := none, window := t.tw.window } }) ∧
    exec (.twAlertClr r v) s = .next (if bitAt v 0 then { u with tw := { u.tw with alert := false } } else u) ∧
    exec (.twWinClr r v) s = .next (if bitAt v 0 then { u with tw := { u.tw with window := [] } } else u) ∧
    (let b := u.tw
     let a (o : Nat) : W32 := BitVec.ofNat 32 (0x40013000 + o)
     let put (x : Tw) : State := { u with tw := x }
     storesTo r v s
       [(a 0x002, put { b with pecReq := bitAt v 0 }), (a 0x004, put { b with stat := cleared b.stat s.was.tw.stat v }),
        (a 0x006, put { b with ie := v.setWidth 6 }), (a 0x008, (put { b with noticeFw := v.setWidth 8 }).fwMark 19 0x008),
        (a 0x00C, put { b with alertMask := v }), (a 0x020, (put { b with pecErr := v }).fwMark 19 0x020),
        (a 0x022, (put { b with cmdCnt := v }).fwMark 19 0x022), (a 0x024, (put { b with dupCnt := v }).fwMark 19 0x024),
        (a 0x026, (put { b with timeoutCnt := v }).fwMark 19 0x026)] ∧
     readsAs r u
       [(a 0x000, 0x40 + b.addr.toNat), (a 0x002, if b.pecReq then 1 else 0),
        (a 0x004, b.stat.toNat + (if twAlertOn u then 256 else 0) + (if b.mail.isSome then 512 else 0)), (a 0x006, b.ie.toNat),
        (a 0x008, b.noticeFw.toNat), (a 0x00C, b.alertMask.toNat), (a 0x010, b.mailRxLen.toNat), (a 0x020, b.pecErr.toNat),
        (a 0x022, b.cmdCnt.toNat), (a 0x024, b.dupCnt.toNat), (a 0x026, b.timeoutCnt.toNat)] ∧
     ∀ i : Fin 119, storesTo r v s [(a (0x200 + 2 * i.val), put { b with mailTx := tput 0 b.mailTx i v })] ∧
       readsAs r u [(a (0x200 + 2 * i.val), (tget 0 b.mailTx i).toNat), (a (0x100 + 2 * i.val), (tget 0 b.mailRx i).toNat)]))

/-- EEPROM requests of firmware and links pass their checks in order, among them the hold-up check; reads, stores and polls end as the
device answers, an acknowledge later than TWR as none; the IMG_ registers, kept while a request is in hand. -/
def Obligations.EepromRequestsAreCheckedAndServed : Prop :=
  let refused (u : State) (code : BitVec 4) : State :=
    { u with img := { u.img with reqState := 4, reqCode := code, flt := u.img.flt ||| 1 } }
  let mine (u : State) (k : Fin 4) : Prop := u.img.lease.held = true ∧ u.img.lease.owner = k
  let page (u : State) : Nat := 64 * 2 ^ u.img.hdr.epage
  let ceilDiv (x y : Nat) : Nat := (x + y - 1) / y
  let avail (u : State) : Nat :=
    let v := u.pwr.holdup.toNat * u.img.hdr.huDiv / 256
    if u.img.hdr.huVmin < v then u.img.hdr.huC * (v * v - u.img.hdr.huVmin * u.img.hdr.huVmin) / 2000000 else 0
  let need (u : State) : Nat :=
    ceilDiv (u.img.hdr.huPwr * (ceilDiv ((29 + 9 * page u) * 875) 768 + u.img.hdr.twr) * (256 + u.img.hdr.huMargin)) 256000 *
      (1 + u.img.stores.length)
  let energy (w : W32) (x : Nat) : Prop := x < 2 ^ 32 → w.toNat = x
  let captured (u t : State) : Prop := energy t.img.huEav (avail u) ∧ energy t.img.huEreq (need u)
  let loaded (u : State) (a n : Nat) : Prop :=
    u.img.slot = 1 ∧ a < 0x30000 ∨ u.img.slot = 2 ∧ 0x30000 < a + n ∧ a < 0x60000
  let within (u : State) (a n : Nat) : Prop := 1 ≤ n ∧ n ≤ page u ∧ a / page u = (a + n - 1) / page u
  let begun (u : State) (src : StoreSrc) : Prop := ∃ x ∈ u.img.stores, x.src = src
  let first (l : List (Prop × Nat)) (c : Nat) : Prop :=
    ∃ i : Nat, (∀ j : Nat, j < i → ∀ x : Prop × Nat, l[j]? = some x → ¬ x.1) ∧ ∃ p, l[i]? = some (p, c) ∧ p
  (∀ (k : Fin 4) (s : State), keeperActs s k = true →
    let u := drainAll s k
    let a := u.img.reqAddr.toNat
    let n := u.img.reqLen.toNat
    (u.img.reqState = 1 → exec (.imgReqRead k) s = .next u) ∧
    (u.img.reqState ≠ 1 → ¬ mine u k → exec (.imgReqRead k) s = .next (refused u 1)) ∧
    (u.img.reqState ≠ 1 → mine u k → n = 0 ∨ 256 < n ∨ a / 65536 ≠ (a + n - 1) / 65536 → exec (.imgReqRead k) s = .next (refused u 4)) ∧
    (u.img.reqState ≠ 1 → mine u k → 1 ≤ n → n ≤ 256 → a / 65536 = (a + n - 1) / 65536 → exec (.imgReqRead k) s =
      .next { u with img := { u.img with reqState := 1, reqCode := 0, readTries := 0, reqRd := true } }) ∧
    (u.img.reqState = 1 → u.img.reqRd = true → exec (.imgReqStore k) s = .next u) ∧
    (u.img.reqState ≠ 1 ∨ u.img.reqRd = false → ∃ t c, exec (.imgReqStore k) s = .next t ∧
      first [(¬ mine u k, 1), (u.pwr.pfailSince = true, 6), (¬ (0x60000 ≤ a ∧ a + n ≤ 0x70000 ∨ 0x70000 ≤ a ∧ a + n ≤ 0x80000 ∨
             a + n ≤ 0x60000 ∧ u.integ.hallmark = 1), 2), (loaded u a n, 3), (¬ within u a n, 4), (begun u .firmware, 7),
             (avail u < need u, 5), (True, 0)] c ∧
      (c = 0 → captured u t ∧ t = { u with img := { u.img with
        reqState := 1, reqCode := 0, reqRd := false, huEav := t.img.huEav, huEreq := t.img.huEreq,
        stores := u.img.stores ++ [{ src := .firmware, addr := a, data := (List.range n).map (fun i => tget 0 u.img.buf i) }] } }) ∧
      (c = 5 → captured u t ∧ t = { u with img := { u.img with
        reqState := 4, reqCode := 5, flt := u.img.flt ||| 3, huEav := t.img.huEav, huEreq := t.img.huEreq } }) ∧
      (c = 6 → t = { u with img := { u.img with reqState := 4, reqCode := 6, flt := u.img.flt ||| 0x11 } }) ∧
      (c ≠ 0 → c ≠ 5 → c ≠ 6 → t = refused u (BitVec.ofNat 4 c)))) ∧
  (∀ (src : StoreSrc) (a : Nat) (bs : List Byte) (s : State),
    let n := bs.length
    let t := (linkStore s src a bs).2
    let c := (linkStore s src a bs).1
    first [(s.pwr.pfailSince = true, 5),
      (¬ (s.integ.hallmark = 1 ∨ s.integ.hallmark = 2 ∧ src = .chain ∧ s.integ.hmOpen = true), 1),
      (0x60000 < a + n ∨ loaded s a n, 3), (¬ within s a n, 4), (begun s src, 6), (avail s < need s, 2), (True, 0)] c ∧
    (c = 0 → captured s t ∧ t = { s with img := { s.img with
      huEav := t.img.huEav, huEreq := t.img.huEreq, stores := s.img.stores ++ [{ src := src, addr := a, data := bs }] } }) ∧
    (c = 2 → captured s t ∧ t = { s with img := { s.img with flt := s.img.flt ||| 2, huEav := t.img.huEav, huEreq := t.img.huEreq } }) ∧
    (c = 5 → t = { s with img := { s.img with flt := s.img.flt ||| 0x10 } }) ∧
    (c ≠ 0 → c ≠ 2 → c ≠ 5 → t = s)) ∧
  (∀ (fail : Option EepErr) (stuck : Bool) (s : State),
    let runs := s.pwr.st ≠ .sleep ∧ s.rst.porHeld = false
    let served := runs ∧ s.ss.refetches = [] ∧ s.img.stores = [] ∧ s.img.reqState = 1 ∧ s.img.reqRd = true
    let ended (code : BitVec 4) (f : BitVec 6) : State := { s with img := { s.img with
      readTries := 0, reqState := 5, reqCode := code, flt := s.img.flt ||| f, faddr := BitVec.ofNat 19 s.img.reqAddr.toNat } }
    let dropped (v : State) (x : EepStore) (rest : List EepStore) (st : BitVec 3) (code : BitVec 4) : State :=
      if x.src = .firmware then
        if v.img.reqState = 1 ∧ v.img.reqRd = true then { v with img := { v.img with stores := rest, flt := v.img.flt ||| 1 } }
        else { v with img := { v.img with stores := rest, reqState := st, reqCode := code, flt := v.img.flt ||| 1 } }
      else { v with img := { v.img with stores := rest } }
    (∀ x ∈ [(Instr.eepromRead fail, decide (s.img.readTries = 0)),
            (.eepromReadRetry fail, decide (s.img.readTries ≠ 0 ∧ s.img.readAt ≤ s.now))],
      (¬ served ∨ x.2 = false → exec x.1 s = .next s) ∧
      (served → x.2 = true →
        (fail = none → ∃ t, exec x.1 s = .next t ∧
          (∀ i, tget 0 t.img.buf i = if i < s.img.reqLen.toNat then tget 0xFF s.img.eeprom (s.img.reqAddr.toNat + i) else tget 0 s.img.buf i) ∧
          t = { s with img := { s.img with buf := t.img.buf, readTries := 0, reqState := 3, reqCode := 0, flt := s.img.flt ||| 1 } }) ∧
        (fail = some .noack → s.img.readTries < 3 → exec x.1 s =
          .next { s with img := { s.img with readTries := s.img.readTries + 1, readAt := s.now + 98304 } }) ∧
        (fail = some .noack → 3 ≤ s.img.readTries → exec x.1 s = .next (ended 8 5)) ∧
        (fail = some .busStuck → exec x.1 s = .next (ended 9 9)))) ∧
    ((s.img.stores = [] ∨ ¬ runs ∨ s.ss.refetches ≠ []) → exec (.eepromWrite stuck) s = .next s) ∧
    (s.img.stores = [] → exec .storeFinish s = .next s ∧ exec .storeNoack s = .next s) ∧
    (∀ y rest, s.img.stores = y :: rest →
      let lost (f : BitVec 6) : State := { s with img := { s.img with flt := s.img.flt ||| f, faddr := BitVec.ofNat 19 y.addr } }
      (y.polling = true → exec (.eepromWrite stuck) s = .next s ∧ exec .storeFinish s = .next (
          if 1000 * (s.now - y.pollFrom) ≤ 98304 * s.img.hdr.twr then dropped s y rest 3 0 else dropped (lost 4) y rest 5 8) ∧
        exec .storeNoack s = .next (if y.pollFrom + (s.img.hdr.twr * 98304 + 999) / 1000 ≤ s.now then dropped (lost 4) y rest 5 8 else s)) ∧
      (y.polling = false → exec .storeFinish s = .next s ∧ exec .storeNoack s = .next s ∧
        (runs → s.ss.refetches = [] →
          (stuck = true → exec (.eepromWrite stuck) s = .next (dropped (lost 8) y rest 5 9)) ∧
          (stuck = false → ∃ t, exec (.eepromWrite stuck) s = .next t ∧
            (∀ b, tget 0xFF t.img.eeprom b = if y.addr ≤ b ∧ b < y.addr + y.data.length then nth 0 y.data (b - y.addr)
                                            else tget 0xFF s.img.eeprom b) ∧
            t = { s with img := { s.img with eeprom := t.img.eeprom, stores := { y with polling := true, pollFrom := s.now } :: rest } }))))) ∧
  (∀ (r : Req) (v : Word) (s : State), mayWrite s r = true →
    let u := reqWaits s r
    let i := u.img
    let a (o : Nat) : W32 := BitVec.ofNat 32 (0x40005000 + o)
    let put (x : Img) : State := { u with img := x }
    storesTo r v s
      [(a 0x022, put { i with lease := { i.lease with tmo := v } }), (a 0x050, put { i with flt := cleared i.flt s.was.img.flt v }),
       (a 0x052, put { i with fltIe := v.setWidth 6 })] ∧
    (i.reqState ≠ 1 → storesTo r v s [(a 0x034, put { i with reqLen := v.setWidth 9 })]) ∧
    (i.reqState = 1 → storesTo r v s [(a 0x030, u), (a 0x032, u), (a 0x034, u)]) ∧
    (∀ j : Fin 128,
      (i.reqState ≠ 1 → storesTo r v s [(a (0x100 + 2 * j.val), put { i with
        buf := tput 0 (tput 0 i.buf (2 * j.val) (v.setWidth 8)) (2 * j.val + 1) (v.extractLsb' 8 8) })]) ∧
      (i.reqState = 1 → storesTo r v s [(a (0x100 + 2 * j.val), u)]) ∧
      readsAs r u [(a (0x100 + 2 * j.val), (tget 0 i.buf (2 * j.val)).toNat + 256 * (tget 0 i.buf (2 * j.val + 1)).toNat)]) ∧
    readsAs r u [(a 0x00A, i.loadMs.toNat), (a 0x00C, i.absCnt.toNat), (a 0x022, i.lease.tmo.toNat), (a 0x034, i.reqLen.toNat),
                 (a 0x050, i.flt.toNat + i.lastOwner.val * 256), (a 0x052, i.fltIe.toNat)])

/-- The start-up sequence mends torn fuses, runs boot BIST, and loads the newest slot whose header, checks and sections are good, or enters SAFE. -/
def Obligations.StartUpLoadsTheNewestGoodImage : Prop :=
  ∀ (m : StartIn) (s : State),
    let due : Prop := s.rst.startUpDue = true ∧ s.rst.pending = false ∧ s.rst.heldByNrst = false ∧ s.rst.porHeld = false ∧
      (s.rst.cold = true ∨ s.pwr.pllLock = true)
    let whole (f : Bool × Bool) : Bool × Bool := (f.1 || f.2, f.1 || f.2)
    let i := s.integ
    let mark : Nat := if i.fuse3.1 || i.fuse3.2 then 3 else if i.fuse2.1 || i.fuse2.2 then 2 else if i.fuse1.1 || i.fuse1.2 then 1 else 0
    let base (n : Nat) : Nat := 0x30000 * n
    let head (n : Nat) : List Byte := eepRead s (base n) 0x100
    let seq (n : Nat) : Nat := leAt (head n) 0x0C 4
    let fails (n : Nat) : Option ReadFail := if n = 0 then m.readA else m.readB
    let headGood (n : Nat) : Prop := headerOk s (head n) = true ∧ ∀ f, fails n = some f → f.read ≠ 0
    let newer (x y : Nat) : Prop := 1 ≤ (x + 2 ^ 32 - y) % 2 ^ 32 ∧ (x + 2 ^ 32 - y) % 2 ^ 32 < 2 ^ 31
    let before (x y : Nat) : Prop := x = 1 ∧ y = 0 ∧ newer (seq 1) (seq 0) ∨ x = 0 ∧ y = 1 ∧ ¬ newer (seq 1) (seq 0)
    (startInOk m = false → exec (.startUpSequence m) s = .refused (.illFormed "START_UP_SEQUENCE")) ∧
    (startInOk m = true → ¬ due → exec (.startUpSequence m) s = .next s) ∧
    (startInOk m = true → due → ∃ t, exec (.startUpSequence m) s = .next t ∧
      t.rst.linksUp = true ∧ t.rst.startUpDue = false ∧ (s.pwr.st ≠ .sleep → s.now + 4096 + m.bistCycles ≤ t.now) ∧
      t.integ.fused = m.fused ∧
      t.integ.fuse1 = whole i.fuse1 ∧ t.integ.fuse2 = whole i.fuse2 ∧ t.integ.fuse3 = whole i.fuse3 ∧ t.integ.hallmark.toNat = mark ∧
      (t.integ.tornFixed = true ↔ i.fuse1.1 ≠ i.fuse1.2 ∨ i.fuse2.1 ≠ i.fuse2.2 ∨ i.fuse3.1 ≠ i.fuse3.2) ∧
      t.img.eeprom = s.img.eeprom ∧
      (let reason (n : Nat) : Nat := if n = 0 then t.img.reasonA.toNat else t.img.reasonB.toNat
       (m.bist ≠ .pass → t.integ.safe = true ∧ t.integ.safeCause = 1 ∧ t.rst.loaded = s.rst.loaded ∧ t.tw.alert = true ∧
         (∀ a, getByte .iram t a = 0 ∧ badByte .iram t a = false ∧ getByte .wram t a = getByte .wram s a ∧ badByte .wram t a = false) ∧
         (∀ a, m.bist = .imageRam a → t.integ.bootResult = 1 ∧ t.integ.bootAddr = BitVec.ofNat 32 a) ∧
         (∀ a, m.bist = .workingRam a → t.integ.bootResult = 2 ∧ t.integ.bootAddr = BitVec.ofNat 32 a) ∧
         (m.bist = .chain → t.integ.bootResult = 3)) ∧
       (m.bist = .pass → mark = 3 → t.integ.safe = true ∧ t.integ.safeCause = 3 ∧ t.tw.alert = true ∧ reason 0 = 8 ∧ reason 1 = 8 ∧
         t.img.slot = s.img.slot ∧ t.rst.loaded = s.rst.loaded) ∧
       (m.bist = .pass → mark ≠ 3 → ∀ n f, n < 2 → fails n = some f → f.read = 0 →
         reason n = (if f.err = .noack then 2 else 7) ∧ bitAt t.img.flt (if f.err = .noack then 2 else 3) = true) ∧
       (m.bist = .pass → mark ≠ 3 →
         (t.integ.safe = true ∧ t.integ.safeCause = 2 ∧ t.tw.alert = true ∧ t.img.noImage = true ∧ t.img.slot = s.img.slot ∧
           t.rst.loaded = s.rst.loaded ∧ reason 0 ≠ 0 ∧ reason 1 ≠ 0) ∨
         (∃ n, n < 2 ∧ headGood n ∧ fails n = none ∧ t.rst.loaded = true ∧ t.img.slot = BitVec.ofNat 2 (n + 1) ∧
           t.img.seq.toNat = seq n ∧ t.img.len.toNat = leAt (head n) 4 4 ∧
           (let image := eepRead s (base n) (leAt (head n) 4 4)
            (∀ x ∈ (readHeader (head n)).sects, trailerOk image x = true) ∧ readContent image (readHeader (head n)) ≠ none) ∧
           (∀ a, getByte .iram t a = (if a < leAt (head n) 4 4 then eepByte s (base n + a) else 0) ∧ badByte .iram t a = false) ∧
           (∀ j, j < 2 → headGood j → before j n → reason j ≠ 0) ∧ (∀ j, j < 2 → ¬ headGood j → reason j ≠ 0) ∧
           t.img.planSkipped = (if s.rst.cold then s.img.planSkipped else true) ∧ t.fe.run = true ∧ t.fe.running = true ∧
           (t.keeper 0).run = true ∧ (t.keeper 0).pc.toNat = leAt (head n) 0x1C 4))))

/-- What a lost and regained lock, a lost root, the spread's depth, the timestamp's wrap and a power-fail warning do; the link
requests that waited for the lock are executed at the relock (log 64). -/
def Obligations.ClocksAndThePowerFailWarning : Prop :=
  (∀ s : State,
    let depth : BitVec 2 := if s.pwr.ssc = 3 then 2 else s.pwr.ssc
    let tops := 1000 * (s.now - s.pwr.modAt) / 3145728 + 1
    (let lost := s.pwr.pllLock = true ∧ s.pwr.st ≠ .sleep ∧ s.rst.porHeld = false
     (lost → exec .pllUnlock s = .next { s with pwr := { s.pwr with
       pllLock := false, unlockAt := some s.now, clkFlt := s.pwr.clkFlt ||| 1, unlockCnt := bump s 1 0x008 s.pwr.unlockCnt 1 } }) ∧
     (¬ lost → exec .pllUnlock s = .next s)) ∧
    (s.pwr.unlockAt = none → exec .pllRelock s = .next s ∧ exec .pllLockTimeout s = .next s) ∧
    (∀ at_, s.pwr.unlockAt = some at_ →
      (s.now < at_ + 98304 → exec .pllLockTimeout s = .next s) ∧
      (at_ + 98304 ≤ s.now → exec .pllLockTimeout s = exec (.por .pllLoss) s) ∧
      (∃ u, exec .pllRelock s = .next (twHeldRun (bcHeldRun u)) ∧ (s.bc.held = [] → s.tw.held = [] → exec .pllRelock s = .next u) ∧
         (∀ p, u.pdc p = if p < nPairs s ∧ bitAt s.fe.pairEn p = true then
           { s.pdc p with restartReq := some ((s.pdc p).restartReq.getD 0) } else s.pdc p) ∧
         u = { s with pwr := { s.pwr with pllLock := true, unlockAt := none, modAt := s.now, sscAct := depth },
                      fe := { s.fe with clkFrom := (s.now + 31) / 32 }, pairDc := u.pairDc })) ∧
    (s.rst.porHeld = true → exec .rootLoss s = .next s ∧ exec .epochWrap s = .next s) ∧
    (s.rst.porHeld = false → exec .rootLoss s = exec (.por .rootLoss) s ∧
      ∃ t, exec .epochWrap s = .next t ∧ t.now = (s.now / 2 ^ 53 + 1) * 2 ^ 53 ∧ t.ts = 0 ∧ t.epoch = (s.epoch + 1) % 16 ∧
        t.pwr = { s.pwr with clkFlt := s.pwr.clkFlt ||| 2, sscAct := t.pwr.sscAct } ∧ t.iram = s.iram ∧ t.wram = s.wram ∧
        t.store = s.store ∧ t.ss = s.ss ∧ t.img = s.img ∧ t.fe = s.fe ∧ t.dc = s.dc) ∧
    (busRuns s = false ∨ s.pwr.sscAct = depth → exec .sscDepthApply s = .next s) ∧
    (busRuns s = true → s.pwr.sscAct ≠ depth → ∃ t, exec .sscDepthApply s = .next t ∧
      s.now < t.now ∧ 3145728 * tops ≤ 1000 * (t.now - s.pwr.modAt) ∧ 1000 * (t.now - s.pwr.modAt) < 3145728 * tops + 1000 ∧
      t.pwr = { s.pwr with sscAct := depth, clkFlt := t.pwr.clkFlt } ∧ t.iram = s.iram ∧ t.wram = s.wram ∧ t.store = s.store ∧
      t.ss = s.ss ∧ t.img = s.img ∧ t.fe = s.fe ∧ t.dc = s.dc)) ∧
  (∀ (mv : Nat) (s : State),
    let low := 100 * mv < 102 * s.pwr.pfwThr.toNat
    let starts := mv < s.pwr.pfwThr.toNat ∧ s.pwr.pfwLive = false
    (s.rst.porHeld = true → exec (.pfwStart mv) s = .next s) ∧
    (s.rst.porHeld = false → ¬ starts → exec (.pfwStart mv) s = .next (if low then { s with pwr := { s.pwr with hupLow := s.now } } else s)) ∧
    (s.rst.porHeld = false → starts → s.pwr.st = .sleep → exec (.pfwStart mv) s = .next { s with pwr := { s.pwr with
      hupLow := s.now, pfwLive := true, pfailSince := true, evt := s.pwr.evt ||| 4 } }) ∧
    (s.rst.porHeld = false → starts → s.pwr.st ≠ .sleep → ∃ t, exec (.pfwStart mv) s = .next t ∧
      t.pwr = { s.pwr with hupLow := s.now, pfwLive := true, pfailSince := true, evt := s.pwr.evt ||| 4, port11 := true, flushing := true } ∧
      t.integ = { s.integ with memSlice := none, dpSlice := none, dpStart := none, flt :=
        if s.integ.memSlice ≠ none ∨ s.integ.dpSlice ≠ none then s.integ.flt ||| 0x20 else s.integ.flt } ∧
      (∀ q, t.page q = if s.integ.memSlice = some q then ⟨.free, 0⟩ else s.page q) ∧
      (∀ a, (∀ q, s.integ.memSlice = some q → a < q * 4096 ∨ q * 4096 + 4096 ≤ a) →
        getByte .store t a = getByte .store s a ∧ badByte .store t a = badByte .store s a) ∧
      (∀ p, t.pdc p = if s.integ.dpSlice ≠ none ∧ p = s.integ.dpPair.toNat then { s.pdc p with restartReq := some 1 } else s.pdc p) ∧
      t = { s with pwr := t.pwr, integ := t.integ, ss := { s.ss with pages := t.ss.pages }, store := t.store, storeBad := t.storeBad,
                   free := t.free, pairDc := t.pairDc })) ∧
  (∀ s : State,
    let flushes := s.pwr.flushing = true ∧ busRuns s = true
    let blocked := !s.pwr.port11 && (bitAt s.arb.block 0 || bitAt s.was.arb.block 0)
    (¬ flushes → exec .pfwFlushed s = .next s) ∧
    (flushes → ∃ t, exec .pfwFlushed s = .next t ∧ t.pwr = { s.pwr with flushing := false, evt := s.pwr.evt ||| 8 } ∧ t.ss.ready = [] ∧
      (s.ss.ready = [] → t = { s with pwr := t.pwr }) ∧
      (∀ r, s.ss.ready = [r] → (if (s.strm r.stream).armed = true then (s.strm r.stream).armOrd ≤ r.ord
          else (s.strm r.stream).lastOrd = some r.ord) → r.gaps = [] → (∀ g ∈ (s.strm r.stream).gaps, g.port ≠ 0) →
        1 ≤ r.words.length → r.words.length ≤ 2048 → recordWritten s t 0 blocked r.stream r.e r.words)) ∧
    (∀ mv, (s.pwr.pfwLive = false ∨ 100 * mv < 102 * s.pwr.pfwThr.toNat → exec (.pfwEnd mv) s = .next s) ∧
      (s.pwr.pfwLive = true → 102 * s.pwr.pfwThr.toNat ≤ 100 * mv → ∃ t, exec (.pfwEnd mv) s = .next t ∧
        t.now = max s.now (s.pwr.hupLow + 98304) ∧
        t.pwr = { s.pwr with pfwLive := false, port11 := false, flushing := false, clkFlt := t.pwr.clkFlt, sscAct := t.pwr.sscAct,
                             evt := if s.pwr.flushing ∧ busRuns s then s.pwr.evt ||| 8 else s.pwr.evt } ∧
        (flushes → t.ss.ready = []) ∧ (¬ flushes → t.ss = s.ss ∧ t.store = s.store) ∧
        (¬ flushes → s.pwr.hupLow + 98304 ≤ s.now → t = { s with pwr := t.pwr }))))

/-- Requests for DOZE and SLEEP, their time-out, the entries into both states and the exit from SLEEP with what is kept and lost.
A keeper is ready while it is not released, or stalled in WFI with nothing pending that would end the stall. -/
def Obligations.PowerStatesAreEnteredAndLeft : Prop :=
  (∀ (k : Fin 4) (s : State), keeperActs s k = true →
    let u := drainAll s k
    ∀ x ∈ [(Instr.pwrReqRun k, (0 : BitVec 2)), (.pwrReqDoze k, 1), (.pwrReqSleep k, 2)],
      exec x.1 s = .next (if u.integ.safe = true ∨ u.pwr.req = x.2 then u
        else { u with pwr := { u.pwr with req := x.2, reqAt := s.now } })) ∧
  (∀ s : State,
    let allReady (x : State) : Prop := ∀ k, k < nKeepers s → (x.keeper k).run = false ∨ (x.keeper k).wfi = true ∧
      ((x.keeper k).meie = true → meip x k = false) ∧ ((x.keeper k).mtie = true → mtip x k = false)
    let ready := allReady s
    let late := busRuns s = true ∧ s.pwr.req ≠ 0 ∧ s.pwr.st = .run ∧ s.pwr.entering = false ∧ ¬ ready ∧
      s.pwr.reqAt + 98304 * max 1 s.pwr.entryTmo.toNat ≤ s.now
    let dozes := busRuns s = true ∧ s.pwr.req = 1 ∧ s.pwr.st = .run ∧ ready
    let sleeps := busRuns s = true ∧ s.pwr.entering = true ∧ s.pwr.st = .run ∧ s.rst.pending = false
    (late → exec .pwrEntryTimeout s = .next { s with pwr := { s.pwr with req := 0, evt := s.pwr.evt ||| 2 } }) ∧
    (¬ late → exec .pwrEntryTimeout s = .next s) ∧
    (¬ dozes → exec .dozeEnter s = .next s) ∧
    (dozes → ¬ allReady (passCycles s 4) → exec .dozeEnter s = .next (passCycles s 4)) ∧
    (dozes → allReady (passCycles s 4) → ∃ t, exec .dozeEnter s = .next t ∧ t.now = (passCycles s 4).now ∧ t.cyc = (passCycles s 4).cyc ∧
      t.pwr = { s.pwr with st := .doze, evt := s.pwr.evt ||| 1, clkFlt := t.pwr.clkFlt, sscAct := t.pwr.sscAct } ∧
      (∀ n ∈ sharedInputs, bitAt t.kic.wsin n = sharedLevel (passCycles s 4) n) ∧
      t.iram = s.iram ∧ t.wram = s.wram ∧ t.store = s.store ∧ t.ss = s.ss ∧ t.fe = s.fe ∧ t.dc = s.dc ∧ t.io = s.io ∧
      (∀ k, (t.keeper k).pc = (s.keeper k).pc ∧ (t.keeper k).regs = (s.keeper k).regs)) ∧
    (¬ sleeps → exec .sleepEntry s = .next s) ∧
    (sleeps → ∃ t, exec .sleepEntry s = .next t ∧ t.pwr.st = .sleep ∧ t.pwr.pllLock = false ∧ t.pwr.entering = false ∧
      bitAt t.pwr.evt 0 = true ∧ t.pwr.wake = none ∧ t.pwr.retCap = t.pwr.ret ∧ t.pwr.sleepAt = t.now ∧ s.now ≤ t.now ∧
      (s.img.stores ≠ [] ∨ s.bc.reply ≠ none → bitAt t.pwr.evt 4 = true) ∧ t.img.stores = [] ∧ t.bc.reply = none ∧
      t.bc.lowRate = true ∧ t.bc.rateDue = none ∧
      t.tw.stopWait = false ∧ t.pwr.port11 = false ∧ t.pwr.flushing = false ∧ t.ss.ready = [] ∧ t.integ.dpStart = none ∧ t.fe.running = false ∧ t.fe.run = s.fe.run ∧ t.integ.memSlice = none ∧ t.integ.dpSlice = none ∧
      (∀ p, p < nPairs s → (t.pdc p).change = none) ∧
      (∀ n p, (t.strm n).armed = true → p ∈ ringPages t (t.strm n) → bitAt t.pwr.retCap (p % nBanks s) = true) ∧
      (∀ n, n < nLines s → bitAt t.io.ilCmd n = bitAt t.io.ilSafe n) ∧
      (∀ n, n < nVouts s → tget 0x8000 t.io.voCode n = tget 0x8000 t.io.voSafe n ∧ tget 0x8000 t.io.voOut n = tget 0x8000 t.io.voSafe n) ∧
      (∀ n, n < nLoops s → (t.lout n).cmd = (t.lout n).safe ∧
        ((t.lout n).compliance = false ∨ (t.lout n).drop = false →
          (t.lout n).applied = max 3500 (min (t.lout n).safe.toNat 22000))))) ∧
  (∀ s : State,
    (s.pwr.wake = none ∨ s.pwr.st ≠ .sleep ∨ s.rst.pending = true → exec .sleepExit s = .next s) ∧
    (∀ c w, s.pwr.wake = some (c, w) → s.pwr.st = .sleep → s.rst.pending = false → ∃ t, exec .sleepExit s = .next t ∧
      let lost (b : Nat) : Bool := !bitAt s.pwr.retCap b
      let inGroup (g : Nat) : Nat := ((List.range (nBanks s)).filter (fun b => lost b && b % 4 == g)).length
      t.pwr.st = .run ∧ t.pwr.pllLock = true ∧ t.pwr.wake = none ∧ t.pwr.req = 0 ∧ bitAt t.pwr.evt 0 = true ∧
      t.pwr.wakeCause = BitVec.ofNat 2 c ∧ t.pwr.wakeEntry = BitVec.ofNat 4 w ∧ t.fe.run = s.fe.run ∧ t.fe.running = s.fe.run ∧
      t.pwr.port11 = s.pwr.pfwLive ∧ t.bc.wakeReq = false ∧ t.bc.lowRate = (s.bc.lowRate && (c != 1 || s.bc.reply.isSome)) ∧
      t.bc.reply = (if c = 1 then s.bc.reply.map (fun r => { r with wakes := true }) else s.bc.reply) ∧
      (let clocked := { s with pwr := { s.pwr with pllLock := true, st := .doze, modAt := s.now,
                                                   sscAct := if s.pwr.ssc = 3 then 2 else s.pwr.ssc } }
       ∀ g, g < 4 → (∀ h, h < 4 → inGroup h ≤ inGroup g) → (passCycles clocked (1048576 * inGroup g)).now ≤ t.now) ∧
      (∀ n, n < nLoops s → (t.lout n).shorts = 0 ∧ (t.lout n).skip = 1 ∧ (t.lout n).applied = (s.lout n).applied) ∧
      (∀ a, getByte .store t a = (if lost (a / 4096 % nBanks s) then 0 else getByte .store s a) ∧
            badByte .store t a = (!lost (a / 4096 % nBanks s) && badByte .store s a)) ∧
      (let gone := s.integ.lkPresent = true ∧ ∃ p, p < 16 ∧ lost (p % nBanks s) = true
       (gone → t.integ.lkPresent = false ∧ t.integ.lkFlt = s.integ.lkFlt ||| 0x10) ∧
       (¬ gone → t.integ.lkPresent = s.integ.lkPresent ∧ t.integ.lkFlt = s.integ.lkFlt)) ∧
      t.iram = s.iram ∧ t.wram = s.wram ∧ t.ss.pages = s.ss.pages ∧ t.ss.ring = s.ss.ring ∧
      (∀ i, i < 256 → (bitAt t.kic.spend i = true ↔
        ∃ x, x < 16 ∧ bitAt t.kic.watchHit x = true ∧ (tget 0 t.kic.watch x).toNat % 256 = i)) ∧
      (∀ k, k < nKeepers s → (t.keeper k).wfi = false)))

/-- What each cause of a reset does at once, what a warm reset keeps and loses, what a POR keeps and drives while it is held, and
how both are released (log 67: the balls while a POR is held). -/
def Obligations.ResetsOfTheWholeHub : Prop :=
  let caused (s t : State) (kind : Nat) : Prop :=
    let hist : BitVec 7 := s.rst.hist ||| BitVec.ofNat 7 (2 ^ kind)
    (s.rst.porHeld = true ∨ s.integ.safe = true ∧ kind ≠ 1 → t = s) ∧
    (s.rst.porHeld = false → s.integ.safe = false ∨ kind = 1 → s.rst.pending = true → t = { s with rst := { s.rst with hist := hist } }) ∧
    (s.rst.porHeld = false → s.integ.safe = false ∨ kind = 1 → s.rst.pending = false →
      t.rst = { s.rst with kind := BitVec.ofNat 3 kind, rootLoss := false, pllLoss := false, hist := hist, pending := true } ∧
      t.io.ilCmd = 0 ∧ (∀ n, tget 0x8000 t.io.voCode n = 0x8000 ∧ tget 0x8000 t.io.voOut n = 0x8000 ∧ (t.lout n).cmd = 3500 ∧
        (t.lout n).applied = 3500 ∧ (t.port n).en = false ∧ (t.port n).frame = none ∧ (t.port n).txFifo = [] ∧ (t.port n).de = false) ∧
      (∀ n, (t.strm n).armed = false ∧ (t.strm n).checking = false ∧ (t.strm n).head = (s.strm n).head ∧
        (t.strm n).tail = (s.strm n).tail ∧ strmLevel (t.strm n) = strmLevel (s.strm n)) ∧
      t = { s with rst := t.rst, io := { s.io with ilCmd := 0, voCode := [], voOut := [], ports := t.io.ports, loops := t.io.loops },
                   ss := { s.ss with streams := t.ss.streams } })
  (∀ s : State,
    (∃ t u, exec .nrst s = .next t ∧ caused s u 1 ∧ t = { u with rst := { u.rst with nrstLow := true } }) ∧
    (s.bc.resetDue = false → exec .chainReset s = .next s) ∧
    (s.bc.resetDue = true → ∃ t, exec .chainReset s = .next t ∧ caused { s with bc := { s.bc with resetDue := false } } t 2) ∧
    (s.integ.hmTarget = none → exec .hallmarkReset s = .next s) ∧
    (∀ target, s.integ.hmTarget = some target → ∃ t u, exec .hallmarkReset s = .next t ∧ caused u t 4 ∧ u.integ.hmTarget = none ∧
      u.now = max s.now (s.integ.hmAdvAt + 2 * 98304 * (2 * (target.toNat - s.integ.hallmark.toNat))) ∧ u.pending = s.pending ∧
      (let blown (n : Nat) (f : Bool × Bool) : Bool × Bool := if s.integ.hallmark.toNat < n ∧ n ≤ target.toNat then (true, true) else f
       u.integ = { s.integ with hmTarget := none, fuse1 := blown 1 s.integ.fuse1, fuse2 := blown 2 s.integ.fuse2,
                                fuse3 := blown 3 s.integ.fuse3 }) ∧ u.rst = s.rst ∧ u.io = s.io) ∧
    exec .nrstRelease s = .next { s with rst := { s.rst with
      nrstLow := false, startUpDue := s.rst.startUpDue || s.rst.heldByNrst, heldByNrst := false } } ∧
    (∀ on, exec (.boundaryScanExtest on) s = .next { s with pwr := { s.pwr with extest := on } }) ∧
    (s.rst.porHeld = false → ∀ st, exec (.porRelease st) s = .next s) ∧
    (s.rst.porHeld = true → ∀ st, ∃ t, exec (.porRelease st) s = .next t ∧ t.was = t.snap ∧
      t = { s with now := 0, bc := { s.bc with addr := st.bcId }, tw := { s.tw with addr := st.twA }, pwr := { s.pwr with xsel := st.xsel },
                   rst := { s.rst with porHeld := false, heldByNrst := s.rst.nrstLow, startUpDue := !s.rst.nrstLow }, was := t.was }) ∧
    (∀ c, ∃ t, exec (.por c) s = .next t ∧
      (∀ b, (∀ x ∈ s.img.stores, x.polling = true → b < x.addr ∨ x.addr + x.data.length ≤ b) → eepByte t b = eepByte s b) ∧
      (s.integ.hmTarget = none → t.integ.fuse1 = s.integ.fuse1 ∧ t.integ.fuse2 = s.integ.fuse2 ∧ t.integ.fuse3 = s.integ.fuse3) ∧
      (let i := t.integ
       i.hallmark = if i.fuse3.1 || i.fuse3.2 then 3 else if i.fuse2.1 || i.fuse2.2 then 2 else if i.fuse1.1 || i.fuse1.2 then 1 else 0) ∧
      (∀ ball avddEx ref, ballDrive t avddEx ref ball = if s.pwr.extest = true then .scan else if ballPresent s ball = false then .hiZ
        else match ball with | .ipDe _ => .pulledLow | .loop _ => .sinksAtMost 10 | _ => .hiZ) ∧
      t.was = t.snap ∧
      t = { State.reset with
        variant := s.variant, was := t.was, free := t.free, pending := s.pending, rdata := s.rdata, img := { eeprom := t.img.eeprom },
        pwr := { wakeBalls := s.pwr.wakeBalls, extest := s.pwr.extest },
        rst := { rootLoss := c == .rootLoss, pllLoss := c == .pllLoss, porHeld := true, nrstLow := s.rst.nrstLow,
                 hist := match c with | .supplies => 1 | .rootLoss => 0x21 | .pllLoss => 0x41 },
        integ := { fuse1 := t.integ.fuse1, fuse2 := t.integ.fuse2, fuse3 := t.integ.fuse3, hallmark := t.integ.hallmark } })) ∧
  (∀ (left : List Nat) (s : State),
    (s.rst.pending = false → exec (.warmReset left) s = .next s) ∧
    (s.rst.pending = true → ∃ t, exec (.warmReset left) s = .next t ∧
      let lost (k : Nat) : Nat := min (nth 0 left k) (s.keeper k).sbuf.length
      let r := s.rst
      let p := s.pwr
      t.rst = { kind := r.kind, hist := r.hist, count := satAdd r.count 1, nrstLow := r.nrstLow, heldByNrst := r.nrstLow,
                startUpDue := !r.nrstLow, cold := false, storeWait := decide (s.img.stores ≠ []), keepers := t.rst.keepers,
                discard := BitVec.ofNat 8 (min 255 ((List.range (nKeepers s)).map lost).sum) } ∧
      (∀ k, k < 4 → (bitAt t.rst.keepers k = true ↔ k < nKeepers s ∧ lost k ≠ 0)) ∧
      ((∀ k, (s.keeper k).sbuf = []) → s.integ.hmTarget = none → s.integ.hallmark = 3 → t.wram = s.wram ∧ t.wramBad = s.wramBad) ∧
      (s.integ.memSlice = none → p.st ≠ .sleep → t.store = s.store ∧ t.storeBad = s.storeBad ∧ t.integ.lkPresent = s.integ.lkPresent) ∧
      (∀ q, t.page q = if s.integ.memSlice = some q then ⟨.free, 0⟩ else s.page q) ∧
      (tabWf {} s.ss.streams = true → ∀ n, (t.strm n).armed = false ∧ (t.strm n).head = (s.strm n).head ∧
        (t.strm n).tail = (s.strm n).tail ∧ strmLevel (t.strm n) = strmLevel (s.strm n) ∧ (t.strm n).rlen = 0) ∧
      (∀ x, s.img.stores = [x] → x.polling = false → ∀ b, eepByte t b =
        if x.addr ≤ b ∧ b < x.addr + x.data.length then nth 0 x.data (b - x.addr) else eepByte s b) ∧
      (s.bc.mail = none → t.bc.windows = s.bc.windows) ∧ (s.tw.mail = none → t.tw.window = s.tw.window) ∧ t.was = t.snap ∧
      t = { State.reset with
        variant := s.variant, was := t.was, busM := s.busM, fw := s.fw, fwAt := s.fwAt, now := s.now, free := t.free, pending := s.pending, rdata := s.rdata, wram := t.wram, wramBad := t.wramBad,
        store := t.store, storeBad := t.storeBad, kic := { watch := s.kic.watch, watchHit := s.kic.watchHit },
        fe := { clkFrom := (s.now + 31) / 32 },
        ss := { pages := t.ss.pages, ring := s.ss.ring, elog := s.ss.elog, elogOvf := s.ss.elogOvf, scrubLap := s.ss.scrubLap,
                streams := t.ss.streams, scrubStart := s.now, iscrubAt := s.cyc },
        bc := { addr := s.bc.addr, nseq := s.bc.nseq, windows := t.bc.windows }, tw := { addr := s.tw.addr, window := t.tw.window },
        img := { eeprom := t.img.eeprom },
        pwr := { pllLock := p.pllLock || p.st == .sleep, modAt := if p.st = .sleep then s.now else p.modAt, unlockAt := p.unlockAt, xsel := p.xsel, clkFlt := p.clkFlt,
                 unlockCnt := p.unlockCnt, ret := p.ret, pfwThr := p.pfwThr, tjMax := p.tjMax, padcfg := p.padcfg,
                 wakeBalls := p.wakeBalls, extest := p.extest },
        rst := t.rst,
        integ := { memLap := s.integ.memLap, sparesUsed := s.integ.sparesUsed, sparesFused := s.integ.sparesFused,
                   repaired := s.integ.repaired, repCnt := s.integ.repCnt, fuse1 := t.integ.fuse1, fuse2 := t.integ.fuse2,
                   fuse3 := t.integ.fuse3, hallmark := s.integ.hallmark, lkPresent := t.integ.lkPresent, k0Bad := s.integ.k0Bad,
                   lkLen := s.integ.lkLen, lkSeq := s.integ.lkSeq, lkTs := s.integ.lkTs, lkKeeper := s.integ.lkKeeper,
                   k0RstCnt := s.integ.k0RstCnt, lkFlt := t.integ.lkFlt } }))

/-- Memory slices borrow the next free page and free, repair or retire it; repairs by command; datapath slices take the next pair,
start with it at the next swap instant, compare, and carry out what was held back. -/
def Obligations.SlicesTestAndRowsAreRepaired : Prop :=
  (∀ s : State,
    let i := s.integ
    let may := busRuns s = true ∧ i.memEn = true ∧ i.memSlice = none ∧ s.pwr.pfwLive = false ∧ s.rst.pending = false
    let next := if i.memAny then i.memPage.toNat + 1 else 16
    let isFree (p : Nat) : Prop := (s.page p).st = .free
    let firstIn (lo hi p : Nat) : Prop := lo ≤ p ∧ p < hi ∧ isFree p ∧ ∀ q, lo ≤ q → q < p → ¬ isFree q
    let noneIn (lo hi : Nat) : Prop := ∀ q, lo ≤ q → q < hi → ¬ isFree q
    (¬ may → exec .memSliceStart s = .next s) ∧
    (may → ∃ t, exec .memSliceStart s = .next t ∧ t.now = max s.now (i.memAt + 98304 * max 1 i.memPeriod.toNat) ∧ t.integ.memAt = t.now ∧
      t.store = s.store ∧ t.storeBad = s.storeBad ∧
      (noneIn next (nPages s) → noneIn 16 next → t.integ.memSlice = none ∧ t.ss = s.ss) ∧
      (∀ p, firstIn next (nPages s) p ∨ noneIn next (nPages s) ∧ firstIn 16 next p →
        t.integ.memSlice = some p ∧ t.integ.memSliceAt = t.cyc ∧ t.integ.memPage = BitVec.ofNat 13 p ∧ t.integ.memAny = true ∧ t.page p = ⟨.borrowed, 0⟩ ∧
        (∀ q, q ≠ p → t.page q = s.page q) ∧
        (firstIn next (nPages s) p → t.integ.memLap = i.memLap ∧ t.integ.flt = i.flt ∧ t.integ.tested = i.tested) ∧
        (noneIn next (nPages s) → bitAt t.integ.flt 6 = true ∧ t.integ.tested = [] ∧
          t.integ.memLap.toNat = min ((t.now - i.lapAt) / 98304000) (2 ^ 32 - 1) ∧
          t.integ.untCnt.toNat = ((List.range (nPages s)).filter (fun q => decide (16 ≤ q) && (s.page q).st != .retired &&
            !i.tested.any (fun x => x == q))).length)))) ∧
  (∀ (failing again : List (Fin 2048)) (s : State),
    (busRuns s = false ∨ s.integ.memSlice = none → exec (.memSliceEnd failing again) s = .next s) ∧
    (∀ p, busRuns s = true → s.integ.memSlice = some p → ∃ t, exec (.memSliceEnd failing again) s = .next t ∧
      let b := p % nBanks s
      let rows := (failing.map (fun w => p / nBanks s * 4 + w.val / 512)).eraseDups
      let used := min rows.length (tget 64 s.integ.sparesFused b - tget 0 s.integ.sparesUsed b)
      let blocked := bitAt s.arb.block 10 = true ∨ bitAt s.was.arb.block 10 = true
      let good := failing = [] ∨ used = rows.length ∧ again = []
      let byte (a : Nat) : Prop := getByte .store t a = getByte .store s a ∧ badByte .store t a = badByte .store s a
      t.integ.memSlice = none ∧ t.page p = (if blocked ∨ good then ⟨.free, 0⟩ else ⟨.retired, 0⟩) ∧ (∀ q, q ≠ p → t.page q = s.page q) ∧
      (∀ a, a < p * 4096 ∨ p * 4096 + 4096 ≤ a → byte a) ∧
      (blocked → t.integ = { s.integ with memSlice := none, flt := s.integ.flt ||| 0x20 }) ∧
      (¬ blocked → t.integ.tested = p :: s.integ.tested ∧
        (good → ∀ j, j < 4096 → getByte .store t (p * 4096 + j) = 0 ∧ badByte .store t (p * 4096 + j) = false) ∧
        (failing = [] → t.integ = { s.integ with memSlice := none, tested := t.integ.tested } ∧ t.ss = { s.ss with pages := t.ss.pages }) ∧
        (failing ≠ [] → t.integ.failPage = BitVec.ofNat 13 p ∧ t.integ.failLoc = BitVec.ofNat 16 (b * 4096 + nth 0 rows 0) ∧
          tget 0 t.integ.sparesUsed b = tget 0 s.integ.sparesUsed b + used ∧
          (∀ c, c ≠ b → tget 0 t.integ.sparesUsed c = tget 0 s.integ.sparesUsed c) ∧
          t.integ.repCnt.toNat = (if s.fwWrote 20 0x028 = true then s.integ.repCnt.toNat else min (s.integ.repCnt.toNat + used) 65535) ∧
          (∀ x, x < 7 → bitAt t.integ.flt x = (bitAt s.integ.flt x || decide (x = 1 ∧ used ≠ 0) || decide ((x = 0 ∨ x = 2) ∧ ¬ good))))))) ∧
  (∀ (r : Req) (v : Word) (s : State), mayWrite s r = true →
    let u := reqWaits s r
    let b := v.toNat / 4096
    let row := v.toNat % 2048
    let p := row / 4 * nBanks u + b
    let answers (code : BitVec 3) : Prop := exec (.bistRepair r v) s = .next { u with integ := { u.integ with repairRes := code } }
    let known := b * 2048 + row ∈ u.integ.fused ∨ b * 2048 + row ∈ u.integ.repaired
    let spares := tget 64 u.integ.sparesFused b - tget 0 u.integ.sparesUsed b
    (nBanks u ≤ b → answers 3) ∧ (b < nBanks u → known → answers 2) ∧
    (b < nBanks u → ¬ known → (u.page p).st ≠ .free → answers 4) ∧
    (b < nBanks u → ¬ known → (u.page p).st = .free → spares = 0 → answers 1) ∧
    (b < nBanks u → ¬ known → (u.page p).st = .free → spares ≠ 0 → ∃ t, exec (.bistRepair r v) s = .next t ∧
      t.integ = { u.integ with repairRes := 0, sparesUsed := t.integ.sparesUsed, repaired := (b * 2048 + row) :: u.integ.repaired,
                               repCnt := bump u 20 0x028 u.integ.repCnt 1 } ∧
      tget 0 t.integ.sparesUsed b = tget 0 u.integ.sparesUsed b + 1 ∧ (∀ c, c ≠ b → tget 0 t.integ.sparesUsed c = tget 0 u.integ.sparesUsed c) ∧
      (let a := p * 4096 + row % 4 * 1024
       ∀ x, x < a ∨ a + 1024 ≤ x → getByte .store t x = getByte .store u x ∧ badByte .store t x = badByte .store u x) ∧
      t = { u with integ := t.integ, store := t.store, storeBad := t.storeBad, free := t.free })) ∧
  (∀ s : State,
    let may := busRuns s = true ∧ s.integ.dpWin = true ∧ s.integ.dpSlice = none ∧ s.integ.dpStart = none
    let fit (p : Nat) : Prop := p < nPairs s ∧ bitAt s.fe.pairEn p = true ∧ bitAt s.integ.dpMask p = true ∧ bitAt s.dc.busy p = false
    let from_ := if s.integ.dpAny then s.integ.dpPair.toNat + 1 else 0
    (¬ may → exec .dpSliceStart s = .next s) ∧
    (may → ∃ t, exec .dpSliceStart s = .next t ∧ t.now = max s.now (s.integ.dpAt + 98304 * max 1 s.integ.dpPeriod.toNat) ∧
      ((∀ p, ¬ fit p) → t.integ = { s.integ with dpAt := t.now }) ∧
      (∀ p, fit p → (from_ ≤ p ∧ (∀ q, from_ ≤ q → q < p → ¬ fit q)) ∨ ((∀ q, from_ ≤ q → ¬ fit q) ∧ ∀ q, q < p → ¬ fit q) →
        t.integ = { s.integ with dpAt := t.now, dpStart := some (BitVec.ofNat 8 p) }))) ∧
  (∀ (m : SwapIn) (p : BitVec 8) (s : State), swapInOk m = true → busRuns s = true → s.integ.dpStart = some p →
    ∃ t, exec (.swapInstant m) s = .next t ∧
      ((t.pfe p.toNat).st ≠ .off → (t.pdc p.toNat).coarseNow = none ∧
        t.integ = { s.integ with dpStart := none, dpSlice := some t.fe.lastSwap, dpPair := p, dpAny := true }) ∧
      ((t.pfe p.toNat).st = .off → (t.pdc p.toNat).restartReq = some 1 ∧
        t.integ = { s.integ with dpStart := none, dpSlice := none, dpPair := p, dpAny := true, flt := s.integ.flt ||| 0x20 })) ∧
  (∀ (ok : Bool) (s : State),
    (busRuns s = false ∨ s.integ.dpSlice = none → exec (.dpSliceEnd ok) s = .next s) ∧
    (∀ s0, busRuns s = true → s.integ.dpSlice = some s0 → ∃ t,
      let p := s.integ.dpPair.toNat
      let pd := s.pdc p
      let w := match pd.change with | some c => c.word | none => pd.filt.word
      let pad := if pd.change.isSome then 0 else pd.pad
      exec (.dpSliceEnd ok) s = .next (match pd.heldGo with | none => t | some go => dcGoTake t p go) ∧
      t.now = max s.now (32 * (s0 + 16384)) ∧
      t.pdc p = { pd with
        cic := {}, ys := [], hs := [], filt := { word := w, pad := pad }, pad := pad, change := none, outs := [], s0 := s0 + 16384,
        acceptFrom := s0 + 16384 + 320, restartReq := none, restartDue := none, markFinal := true, markCoarse := true, hasOut := false,
        restart := some ⟨1, s0 + 16384, 32 * s.ss.ord⟩, shownS := [], missS := [], shownC := [], missC := [], coarseNow := none,
        heldGo := none, heldRestart := false } ∧
      (∀ q, q ≠ p → t.pdc q = s.pdc q) ∧
      (∀ q, q < 192 → bitAt t.integ.dpFail q = (bitAt s.integ.dpFail q || decide (q = p ∧ ok = false)) ∧
        bitAt t.dc.busy q = (bitAt s.dc.busy q && !(q == p && pd.change.isSome)) ∧
        bitAt t.dc.doneStk q = (bitAt s.dc.doneStk q || (q == p && pd.change.isSome))) ∧
      t.dc = { s.dc with discard := bump t 7 0x004 s.dc.discard 4, busy := t.dc.busy, doneStk := t.dc.doneStk } ∧
      t.integ = { s.integ with dpSlice := none, dpFail := t.integ.dpFail, flt := if ok then s.integ.flt else s.integ.flt ||| 0x10 } ∧
      t.ss = { s.ss with ord := s.ss.ord + 1 } ∧ t.fe = s.fe ∧ t.store = s.store))

/-- Recovery of K0, commits of the locket, and the hallmark's key, advance and update permit, with what each refuses; the settings,
clears and reads of the BIST_, HM_ and LK_ registers. -/
def Obligations.LocketAndHallmarkAreKeptByTheRules : Prop :=
  (∀ (k : Fin 4) (s : State), keeperActs s k = true →
    let u := drainAll s k
    let i := u.integ
    let flagged (f : BitVec 6) : State := { u with integ := { i with lkFlt := i.lkFlt ||| f } }
    (∀ v : Word, exec (.lkK0Rst k v) s =
      .next (if k ≠ 0 ∧ v = 0xA50F then { u with integ := { i with seqDue := true } } else flagged 0x20)) ∧
    (∀ len : W32, ∃ t, exec (.lkCommit k len) s = .next t ∧ t = { u with wideHold := t.wideHold, integ := t.integ } ∧
      t.integ = (if k.val ≠ (if i.k0Bad then 1 else 0) then { i with lkFlt := i.lkFlt ||| 4 }
        else if len.toNat < 16 ∨ 32640 < len.toNat then { i with lkFlt := i.lkFlt ||| 2 }
        else { i with lkPresent := true, lkLen := len, lkKeeper := BitVec.ofNat 2 k.val, lkTs := s.now / 32 % 2 ^ 52, lkSeq := i.lkSeq + 1,
                      k0Bad := i.k0Bad && k != 1, lkFlt := i.lkFlt ||| 1 })) ∧
    exec (.lkK0Ok k) s = .next { u with integ := { i with k0Bad := i.k0Bad && k != 1 } } ∧
    exec (.lkClear k) s = .next { u with integ := { i with lkPresent := false } } ∧
    (∀ v : Word, ∃ t, exec (.hmKey k v) s = .next t ∧
      (∀ j, tget none t.integ.hmKey j = if j = k.val then (if v = 0xC0DE then some s.cyc else none) else tget none i.hmKey j) ∧
      t = { u with integ := { i with hmKey := t.integ.hmKey } }) ∧
    (∀ v : Word,
      let target := v.toNat % 4
      let keyed := ∃ at_, tget none i.hmKey k.val = some at_ ∧ s.cyc ≤ at_ + 64
      (i.hmTarget ≠ none → exec (.hmAdvance k v) s = .next u) ∧
      (i.hmTarget = none → ∃ t, exec (.hmAdvance k v) s = .next t ∧ tget none t.integ.hmKey k.val = none ∧
        (∀ j, j ≠ k.val → tget none t.integ.hmKey j = tget none i.hmKey j) ∧
        t = { u with integ := t.integ } ∧
        (let left (code : BitVec 3) : Prop := t.integ = { i with hmKey := t.integ.hmKey, hmResult := code, hmEvt := i.hmEvt ||| 1 }
         (¬ keyed → left 1) ∧ (keyed → target ≤ i.hallmark.toNat → left 2) ∧
         (keyed → i.hallmark.toNat < target → u.pwr.pfailSince = true → left 3) ∧
         (keyed → i.hallmark.toNat < target → u.pwr.pfailSince = false → t.integ =
           { i with hmKey := t.integ.hmKey, hmResult := 0, hmTarget := some (BitVec.ofNat 2 target), hmAdvAt := s.now })))) ∧
    (∀ v : W32, ∃ t, exec (.hmUpd k v) s = .next t ∧ t = { u with wideHold := t.wideHold, integ := t.integ } ∧
      t.integ = (if i.hallmark ≠ 2 then i
        else if v ≠ 0 ∧ v.toNat = getLE .iram u 0x38 4 then { i with hmOpen := true, hmOpenAt := s.now, hmEvt := i.hmEvt ||| 2 }
        else { i with hmOpen := false, hmEvt := i.hmEvt ||| (if i.hmOpen then 12 else 8) }))) ∧
  (∀ s : State,
    let i := s.integ
    let past := i.hmOpen = true ∧ i.hmOpenAt + 98304000 * max 1 i.hmTmo.toNat ≤ s.now
    (past → exec .hmUpdTimeout s = .next { s with integ := { i with hmOpen := false, hmEvt := i.hmEvt ||| 4 } }) ∧
    (¬ past → exec .hmUpdTimeout s = .next s)) ∧
  (∀ (r : Req) (v : Word) (s : State), mayWrite s r = true →
    let u := reqWaits s r
    let i := u.integ
    let was := s.was.integ
    let on := v.getLsbD 0
    let put (i : Integ) : State := { u with integ := i }
    storesTo r v s
      [(0x40014010, put { i with memEn := on, memAt := if on && !i.memEn then s.now else i.memAt }), (0x40014012, put { i with memPeriod := v }),
       (0x40014020, put { i with spareSel := BitVec.ofNat 4 (v.toNat % nBanks s) }), (0x40014028, (put { i with repCnt := v }).fwMark 20 0x028),
       (0x40014030, put { i with dpWin := on, dpAt := if on && !i.dpWin then s.now else i.dpAt }), (0x40014032, put { i with dpPeriod := v }),
       (0x40014080, put { i with flt := cleared i.flt was.flt v }), (0x40014082, put { i with fltIe := v.setWidth 7 }),
       (0x4000400E, put { i with hmTmo := v }), (0x40004010, put { i with hmEvt := cleared i.hmEvt was.hmEvt v }),
       (0x40004012, put { i with hmEvtIe := v.setWidth 4 }), (0x40015022, (put { i with k0RstCnt := v }).fwMark 21 0x022),
       (0x40015024, put { i with lkFlt := cleared i.lkFlt was.lkFlt v }), (0x40015026, put { i with lkFltIe := v.setWidth 6 })] ∧
    (∀ w : Fin 12, 16 * w.val < nPairs s → storesTo r v s
      [(0x40014040 + BitVec.ofNat 32 (2 * w), put { i with dpMask := setMapWord i.dpMask w v.toNat }),
       (0x40014060 + BitVec.ofNat 32 (2 * w), put { i with dpFail := clearedWord i.dpFail was.dpFail w v })]) ∧
    readsAs r u
      [(0x40014010, i.memEn.toNat), (0x40014014, i.memPage.toNat), (0x4001401A, i.untCnt.toNat), (0x4001401C, i.untFirst.toNat),
       (0x40014022, (tget 64 i.sparesFused i.spareSel.toNat - tget 0 i.sparesUsed i.spareSel.toNat) % 65536), (0x40014026, i.repairRes.toNat),
       (0x40014028, i.repCnt.toNat), (0x40014034, i.dpSlice.isSome.toNat * 32768 + i.dpPair.toNat), (0x40014080, i.flt.toNat),
       (0x40014084, i.failPage.toNat), (0x40014086, i.failLoc.toNat),
       (0x40004000, i.hallmark.toNat + i.tornFixed.toNat * 16 + (if i.hallmark = 2 then 0 else 32)), (0x40004006, i.hmResult.toNat),
       (0x4000400C, i.hmOpen.toNat), (0x4000400E, i.hmTmo.toNat), (0x40004010, i.hmEvt.toNat),
       (0x40015000, i.lkPresent.toNat + i.k0Bad.toNat * 272), (0x40015018, i.lkKeeper.toNat), (0x40015022, i.k0RstCnt.toNat),
       (0x40015024, i.lkFlt.toNat)])
end

