-- ==== Sys2Proof/Laws/Tab.lean ====
section
/-! SUPPORT. Laws of the sparse table: a read after a write, writes to one number, and the canonical form. The read laws hold
of every list; the canonical form is kept by every operation. -/
namespace Sys2Proof.Machine

variable {α : Type}

@[simp] theorem tget_nil (d : α) (i : Nat) : tget d [] i = d := rfl

theorem tget_tdel (d : α) (t : Tab α) (i j : Nat) : tget d (tdel t i) j = if j = i then d else tget d t j := by
  induction t with
  | nil => simp [tdel]
  | cons e t ih =>
    obtain ⟨k, v⟩ := e
    simp only [tdel, List.filter_cons] at ih ⊢
    by_cases hk : k = i
    · subst hk; simp only [ne_eq, not_true_eq_false, decide_false, Bool.false_eq_true, if_false, ih]
      by_cases hj : j = k <;> simp [hj, tget]
    · simp only [ne_eq, hk, not_false_eq_true, decide_true, if_true, tget, ih]
      by_cases hj : j = k
      · subst hj; simp [hk]
      · simp [hj]

theorem tget_tins (d : α) (t : Tab α) (i j : Nat) (v : α) (h : ∀ e ∈ t, e.1 ≠ i) :
    tget d (tins t i v) j = if j = i then v else tget d t j := by
  induction t with
  | nil => simp [tins, tget]
  | cons e t ih =>
    obtain ⟨k, w⟩ := e
    have hk : k ≠ i := h (k, w) (by simp)
    have ht := ih (fun e he => h e (by simp [he]))
    by_cases hlt : i < k
    · simp [tins, hlt, tget]
    · simp only [tins, hlt, if_false, tget, ht]
      by_cases hj : j = k
      · subst hj; simp [hk]
      · simp [hj]

theorem mem_tdel {t : Tab α} {i : Nat} {e : Nat × α} : e ∈ tdel t i ↔ e ∈ t ∧ e.1 ≠ i := by simp [tdel]

/-- What a table reads after a write: the value at the number written, elsewhere what it read before. -/
theorem tget_tput [DecidableEq α] (d : α) (t : Tab α) (i j : Nat) (v : α) :
    tget d (tput d t i v) j = if j = i then v else tget d t j := by
  unfold tput
  by_cases hv : v = d
  · simp only [hv, if_true, tget_tdel]
  · simp only [hv, if_false]
    rw [tget_tins d _ i j v (fun e he => (mem_tdel.mp he).2), tget_tdel]
    by_cases hj : j = i <;> simp [hj]

@[simp] theorem tget_tput_same [DecidableEq α] (d : α) (t : Tab α) (i : Nat) (v : α) : tget d (tput d t i v) i = v := by
  simp [tget_tput]

theorem tget_tput_ne [DecidableEq α] (d : α) (t : Tab α) {i j : Nat} (v : α) (h : j ≠ i) :
    tget d (tput d t i v) j = tget d t j := by simp [tget_tput, h]

/-- A write with one default leaves what other numbers read as with another. -/
theorem tget_tput_other [DecidableEq α] (d e : α) (t : Tab α) {i j : Nat} (v : α) (h : j ≠ i) :
    tget d (tput e t i v) j = tget d t j := by
  unfold tput
  by_cases hv : v = e
  · simp [hv, tget_tdel, h]
  · simp only [hv, if_false]
    rw [tget_tins d _ i j v (fun e he => (mem_tdel.mp he).2), tget_tdel]
    simp [h]

theorem tdel_tdel (t : Tab α) (i : Nat) : tdel (tdel t i) i = tdel t i := by simp [tdel]

theorem tdel_tins (t : Tab α) (i : Nat) (v : α) : tdel (tins t i v) i = tdel t i := by
  induction t with
  | nil => simp [tins, tdel]
  | cons e t ih =>
    obtain ⟨k, w⟩ := e
    simp only [tdel] at ih
    by_cases hlt : i < k
    · simp [tins, hlt, tdel, List.filter_cons]
    · simp only [tins, hlt, if_false, tdel, List.filter_cons, ih]

/-- Of two writes to one number only the second counts. -/
@[simp] theorem tput_tput [DecidableEq α] (d : α) (t : Tab α) (i : Nat) (v w : α) :
    tput d (tput d t i v) i w = tput d t i w := by
  unfold tput
  by_cases hv : v = d
  · simp [hv, tdel_tdel]
  · simp [hv, tdel_tins, tdel_tdel]

theorem tget_tclear (d : α) (t : Tab α) (a n i : Nat) :
    tget d (tclear t a n) i = if a ≤ i ∧ i < a + n then d else tget d t i := by
  induction t with
  | nil => simp [tclear]
  | cons e t ih =>
    obtain ⟨k, v⟩ := e
    simp only [tclear, List.filter_cons] at ih ⊢
    by_cases hk : k < a ∨ a + n ≤ k
    · simp only [hk, decide_true, if_true, tget, ih]
      by_cases hi : i = k
      · subst hi; have : ¬(a ≤ i ∧ i < a + n) := by omega
        simp [this]
      · simp [hi]
    · simp only [hk, decide_false, Bool.false_eq_true, if_false, ih, tget]
      by_cases hi : i = k
      · subst hi; have : a ≤ i ∧ i < a + n := by omega
        simp [this]
      · simp [hi]

theorem tget_tabFrom [DecidableEq α] (d : α) (l : List α) (a i : Nat) :
    tget d (tabFrom d a l) i = if a ≤ i then (l[i - a]?).getD d else d := by
  induction l generalizing a with
  | nil => simp [tabFrom]
  | cons v l ih =>
    have key : tget d (tabFrom d (a + 1) l) i = if a < i then (l[i - (a + 1)]?).getD d else d := by
      rw [ih]; simp
    by_cases hi : i = a
    · subst hi; by_cases hv : v = d <;> simp [tabFrom, hv, tget, key]
    · have step : tget d (tabFrom d a (v :: l)) i = tget d (tabFrom d (a + 1) l) i := by
        by_cases hv : v = d <;> simp [tabFrom, hv, tget, hi]
      rw [step, key]
      by_cases hlt : a < i
      · have : i - a = i - (a + 1) + 1 := by omega
        simp [hlt, Nat.le_of_lt hlt, this]
      · have : ¬ a ≤ i := by omega
        simp [hlt, this]

/-! ## The canonical form -/

variable [DecidableEq α]

theorem tabWfFrom_mono {d : α} {t : Tab α} {m n : Nat} (h : m ≤ n) (w : tabWfFrom d n t = true) : tabWfFrom d m t = true := by
  cases t with
  | nil => rfl
  | cons e t =>
    simp only [tabWfFrom, Bool.and_eq_true, decide_eq_true_eq] at w ⊢
    exact ⟨⟨by omega, w.1.2⟩, w.2⟩

theorem tabWfFrom_filter {d : α} {t : Tab α} {n : Nat} (p : Nat × α → Bool) (w : tabWfFrom d n t = true) :
    tabWfFrom d n (t.filter p) = true := by
  induction t generalizing n with
  | nil => rfl
  | cons e t ih =>
    obtain ⟨k, v⟩ := e
    simp only [tabWfFrom, Bool.and_eq_true, decide_eq_true_eq] at w
    rw [List.filter_cons]
    split
    · simp only [tabWfFrom, Bool.and_eq_true, decide_eq_true_eq]; exact ⟨w.1, ih w.2⟩
    · exact tabWfFrom_mono (by omega) (ih w.2)

theorem tabWfFrom_tins {d : α} {t : Tab α} {n i : Nat} {v : α} (hi : n ≤ i) (hv : v ≠ d) (hk : ∀ e ∈ t, e.1 ≠ i)
    (w : tabWfFrom d n t = true) : tabWfFrom d n (tins t i v) = true := by
  induction t generalizing n with
  | nil => simp [tins, tabWfFrom, hi, hv]
  | cons e t ih =>
    obtain ⟨k, x⟩ := e
    have hne : k ≠ i := hk (k, x) (by simp)
    simp only [tabWfFrom, Bool.and_eq_true, decide_eq_true_eq] at w
    by_cases hlt : i < k
    · simp only [tins, hlt, if_true, tabWfFrom, Bool.and_eq_true, decide_eq_true_eq]
      exact ⟨⟨hi, hv⟩, ⟨by omega, w.1.2⟩, w.2⟩
    · simp only [tins, hlt, if_false, tabWfFrom, Bool.and_eq_true, decide_eq_true_eq]
      exact ⟨w.1, ih (by omega) (fun e he => hk e (by simp [he])) w.2⟩

/-- Every filter, a range cleared among them, keeps the canonical form. -/
theorem tabWf_filter {d : α} {t : Tab α} (p : Nat × α → Bool) (w : tabWf d t = true) : tabWf d (t.filter p) = true :=
  tabWfFrom_filter p w

theorem tabWf_tclear {d : α} {t : Tab α} (a n : Nat) (w : tabWf d t = true) : tabWf d (tclear t a n) = true := tabWfFrom_filter _ w

/-- A write keeps the canonical form. -/
theorem tabWf_tput {d : α} {t : Tab α} (i : Nat) (v : α) (w : tabWf d t = true) : tabWf d (tput d t i v) = true := by
  unfold tput
  by_cases hv : v = d
  · simp only [hv, if_true]; exact tabWfFrom_filter _ w
  · simp only [hv, if_false]
    exact tabWfFrom_tins (Nat.zero_le i) hv (fun e he => (mem_tdel.mp he).2) (tabWfFrom_filter _ w)

theorem tabWfFrom_tabFrom (d : α) (l : List α) (a : Nat) : tabWfFrom d a (tabFrom d a l) = true := by
  induction l generalizing a with
  | nil => rfl
  | cons v l ih =>
    by_cases hv : v = d
    · simp only [tabFrom, hv, if_true]; exact tabWfFrom_mono (by omega) (ih (a + 1))
    · simp [tabFrom, hv, tabWfFrom, ih]

theorem tabWf_tabFrom (d : α) (l : List α) (a : Nat) : tabWf d (tabFrom d a l) = true :=
  tabWfFrom_mono (Nat.zero_le a) (tabWfFrom_tabFrom d l a)

end Sys2Proof.Machine
end

