-- ==== Sys2Proof/Laws/State.lean ====
section
/-! SUPPORT. What each indexed update of the state leaves as it was, field by field, and what it reads back. -/
namespace Sys2Proof.Machine

/-! ## `setKeeper` -/

@[simp] theorem State.keeper_setKeeper_same (s : State) (n : Nat) (v : Keeper) : (s.setKeeper n v).keeper n = v := by
  simp [State.keeper, State.setKeeper]
theorem State.keeper_setKeeper_ne (s : State) (v : Keeper) {n m : Nat} (h : m ≠ n) : (s.setKeeper n v).keeper m = s.keeper m := by
  simp [State.keeper, State.setKeeper, tget_tput_ne _ _ _ h]
@[simp] theorem State.bank_setKeeper (s : State) (n : Nat) (v : Keeper) (m : Nat) : (s.setKeeper n v).bank m = s.bank m := rfl
@[simp] theorem State.pfe_setKeeper (s : State) (n : Nat) (v : Keeper) (m : Nat) : (s.setKeeper n v).pfe m = s.pfe m := rfl
@[simp] theorem State.pdc_setKeeper (s : State) (n : Nat) (v : Keeper) (m : Nat) : (s.setKeeper n v).pdc m = s.pdc m := rfl
@[simp] theorem State.strm_setKeeper (s : State) (n : Nat) (v : Keeper) (m : Nat) : (s.setKeeper n v).strm m = s.strm m := rfl
@[simp] theorem State.agrp_setKeeper (s : State) (n : Nat) (v : Keeper) (m : Nat) : (s.setKeeper n v).agrp m = s.agrp m := rfl
@[simp] theorem State.pod_setKeeper (s : State) (n : Nat) (v : Keeper) (m : Nat) : (s.setKeeper n v).pod m = s.pod m := rfl
@[simp] theorem State.port_setKeeper (s : State) (n : Nat) (v : Keeper) (m : Nat) : (s.setKeeper n v).port m = s.port m := rfl
@[simp] theorem State.lout_setKeeper (s : State) (n : Nat) (v : Keeper) (m : Nat) : (s.setKeeper n v).lout m = s.lout m := rfl
@[simp] theorem State.chm_setKeeper (s : State) (n : Nat) (v : Keeper) (m : Nat) : (s.setKeeper n v).chm m = s.chm m := rfl
@[simp] theorem State.page_setKeeper (s : State) (n : Nat) (v : Keeper) (m : Nat) : (s.setKeeper n v).page m = s.page m := rfl
@[simp] theorem State.setKeeper_variant (s : State) (n : Nat) (v : Keeper) : (s.setKeeper n v).variant = s.variant := rfl
@[simp] theorem State.setKeeper_now (s : State) (n : Nat) (v : Keeper) : (s.setKeeper n v).now = s.now := rfl
@[simp] theorem State.setKeeper_busM (s : State) (n : Nat) (v : Keeper) : (s.setKeeper n v).busM = s.busM := rfl
@[simp] theorem State.setKeeper_was (s : State) (n : Nat) (v : Keeper) : (s.setKeeper n v).was = s.was := rfl
@[simp] theorem State.setKeeper_fw (s : State) (n : Nat) (v : Keeper) : (s.setKeeper n v).fw = s.fw := rfl
@[simp] theorem State.setKeeper_fwAt (s : State) (n : Nat) (v : Keeper) : (s.setKeeper n v).fwAt = s.fwAt := rfl
@[simp] theorem State.setKeeper_iram (s : State) (n : Nat) (v : Keeper) : (s.setKeeper n v).iram = s.iram := rfl
@[simp] theorem State.setKeeper_wram (s : State) (n : Nat) (v : Keeper) : (s.setKeeper n v).wram = s.wram := rfl
@[simp] theorem State.setKeeper_store (s : State) (n : Nat) (v : Keeper) : (s.setKeeper n v).store = s.store := rfl
@[simp] theorem State.setKeeper_iramBad (s : State) (n : Nat) (v : Keeper) : (s.setKeeper n v).iramBad = s.iramBad := rfl
@[simp] theorem State.setKeeper_wramBad (s : State) (n : Nat) (v : Keeper) : (s.setKeeper n v).wramBad = s.wramBad := rfl
@[simp] theorem State.setKeeper_storeBad (s : State) (n : Nat) (v : Keeper) : (s.setKeeper n v).storeBad = s.storeBad := rfl
@[simp] theorem State.setKeeper_banks (s : State) (n : Nat) (v : Keeper) : (s.setKeeper n v).banks = s.banks := rfl
@[simp] theorem State.setKeeper_kic (s : State) (n : Nat) (v : Keeper) : (s.setKeeper n v).kic = s.kic := rfl
@[simp] theorem State.setKeeper_release (s : State) (n : Nat) (v : Keeper) : (s.setKeeper n v).release = s.release := rfl
@[simp] theorem State.setKeeper_sems (s : State) (n : Nat) (v : Keeper) : (s.setKeeper n v).sems = s.sems := rfl
@[simp] theorem State.setKeeper_fe (s : State) (n : Nat) (v : Keeper) : (s.setKeeper n v).fe = s.fe := rfl
@[simp] theorem State.setKeeper_pairFe (s : State) (n : Nat) (v : Keeper) : (s.setKeeper n v).pairFe = s.pairFe := rfl
@[simp] theorem State.setKeeper_pairDc (s : State) (n : Nat) (v : Keeper) : (s.setKeeper n v).pairDc = s.pairDc := rfl
@[simp] theorem State.setKeeper_dc (s : State) (n : Nat) (v : Keeper) : (s.setKeeper n v).dc = s.dc := rfl
@[simp] theorem State.setKeeper_ss (s : State) (n : Nat) (v : Keeper) : (s.setKeeper n v).ss = s.ss := rfl
@[simp] theorem State.setKeeper_arb (s : State) (n : Nat) (v : Keeper) : (s.setKeeper n v).arb = s.arb := rfl
@[simp] theorem State.setKeeper_rc (s : State) (n : Nat) (v : Keeper) : (s.setKeeper n v).rc = s.rc := rfl
@[simp] theorem State.setKeeper_ce (s : State) (n : Nat) (v : Keeper) : (s.setKeeper n v).ce = s.ce := rfl
@[simp] theorem State.setKeeper_io (s : State) (n : Nat) (v : Keeper) : (s.setKeeper n v).io = s.io := rfl
@[simp] theorem State.setKeeper_bc (s : State) (n : Nat) (v : Keeper) : (s.setKeeper n v).bc = s.bc := rfl
@[simp] theorem State.setKeeper_tw (s : State) (n : Nat) (v : Keeper) : (s.setKeeper n v).tw = s.tw := rfl
@[simp] theorem State.setKeeper_img (s : State) (n : Nat) (v : Keeper) : (s.setKeeper n v).img = s.img := rfl
@[simp] theorem State.setKeeper_pwr (s : State) (n : Nat) (v : Keeper) : (s.setKeeper n v).pwr = s.pwr := rfl
@[simp] theorem State.setKeeper_rst (s : State) (n : Nat) (v : Keeper) : (s.setKeeper n v).rst = s.rst := rfl
@[simp] theorem State.setKeeper_integ (s : State) (n : Nat) (v : Keeper) : (s.setKeeper n v).integ = s.integ := rfl
@[simp] theorem State.setKeeper_wideCap (s : State) (n : Nat) (v : Keeper) : (s.setKeeper n v).wideCap = s.wideCap := rfl
@[simp] theorem State.setKeeper_wideHold (s : State) (n : Nat) (v : Keeper) : (s.setKeeper n v).wideHold = s.wideHold := rfl
@[simp] theorem State.setKeeper_rdata (s : State) (n : Nat) (v : Keeper) : (s.setKeeper n v).rdata = s.rdata := rfl
@[simp] theorem State.setKeeper_free (s : State) (n : Nat) (v : Keeper) : (s.setKeeper n v).free = s.free := rfl
@[simp] theorem State.setKeeper_pending (s : State) (n : Nat) (v : Keeper) : (s.setKeeper n v).pending = s.pending := rfl
@[simp] theorem nPods_setKeeper (s : State) (n : Nat) (v : Keeper) : nPods (s.setKeeper n v) = nPods s := rfl
@[simp] theorem nPairs_setKeeper (s : State) (n : Nat) (v : Keeper) : nPairs (s.setKeeper n v) = nPairs s := rfl
@[simp] theorem nBanks_setKeeper (s : State) (n : Nat) (v : Keeper) : nBanks (s.setKeeper n v) = nBanks s := rfl
@[simp] theorem nPages_setKeeper (s : State) (n : Nat) (v : Keeper) : nPages (s.setKeeper n v) = nPages s := rfl
@[simp] theorem nKeepers_setKeeper (s : State) (n : Nat) (v : Keeper) : nKeepers (s.setKeeper n v) = nKeepers s := rfl
@[simp] theorem nPorts_setKeeper (s : State) (n : Nat) (v : Keeper) : nPorts (s.setKeeper n v) = nPorts s := rfl
@[simp] theorem nVouts_setKeeper (s : State) (n : Nat) (v : Keeper) : nVouts (s.setKeeper n v) = nVouts s := rfl
@[simp] theorem nLoops_setKeeper (s : State) (n : Nat) (v : Keeper) : nLoops (s.setKeeper n v) = nLoops s := rfl
@[simp] theorem nLines_setKeeper (s : State) (n : Nat) (v : Keeper) : nLines (s.setKeeper n v) = nLines s := rfl
@[simp] theorem busRuns_setKeeper (s : State) (n : Nat) (v : Keeper) : busRuns (s.setKeeper n v) = busRuns s := rfl

/-! ## `setBank` -/

@[simp] theorem State.bank_setBank_same (s : State) (n : Nat) (v : KicBank) : (s.setBank n v).bank n = v := by
  simp [State.bank, State.setBank]
theorem State.bank_setBank_ne (s : State) (v : KicBank) {n m : Nat} (h : m ≠ n) : (s.setBank n v).bank m = s.bank m := by
  simp [State.bank, State.setBank, tget_tput_ne _ _ _ h]
@[simp] theorem State.keeper_setBank (s : State) (n : Nat) (v : KicBank) (m : Nat) : (s.setBank n v).keeper m = s.keeper m := rfl
@[simp] theorem State.pfe_setBank (s : State) (n : Nat) (v : KicBank) (m : Nat) : (s.setBank n v).pfe m = s.pfe m := rfl
@[simp] theorem State.pdc_setBank (s : State) (n : Nat) (v : KicBank) (m : Nat) : (s.setBank n v).pdc m = s.pdc m := rfl
@[simp] theorem State.strm_setBank (s : State) (n : Nat) (v : KicBank) (m : Nat) : (s.setBank n v).strm m = s.strm m := rfl
@[simp] theorem State.agrp_setBank (s : State) (n : Nat) (v : KicBank) (m : Nat) : (s.setBank n v).agrp m = s.agrp m := rfl
@[simp] theorem State.pod_setBank (s : State) (n : Nat) (v : KicBank) (m : Nat) : (s.setBank n v).pod m = s.pod m := rfl
@[simp] theorem State.port_setBank (s : State) (n : Nat) (v : KicBank) (m : Nat) : (s.setBank n v).port m = s.port m := rfl
@[simp] theorem State.lout_setBank (s : State) (n : Nat) (v : KicBank) (m : Nat) : (s.setBank n v).lout m = s.lout m := rfl
@[simp] theorem State.chm_setBank (s : State) (n : Nat) (v : KicBank) (m : Nat) : (s.setBank n v).chm m = s.chm m := rfl
@[simp] theorem State.page_setBank (s : State) (n : Nat) (v : KicBank) (m : Nat) : (s.setBank n v).page m = s.page m := rfl
@[simp] theorem State.setBank_variant (s : State) (n : Nat) (v : KicBank) : (s.setBank n v).variant = s.variant := rfl
@[simp] theorem State.setBank_now (s : State) (n : Nat) (v : KicBank) : (s.setBank n v).now = s.now := rfl
@[simp] theorem State.setBank_busM (s : State) (n : Nat) (v : KicBank) : (s.setBank n v).busM = s.busM := rfl
@[simp] theorem State.setBank_was (s : State) (n : Nat) (v : KicBank) : (s.setBank n v).was = s.was := rfl
@[simp] theorem State.setBank_fw (s : State) (n : Nat) (v : KicBank) : (s.setBank n v).fw = s.fw := rfl
@[simp] theorem State.setBank_fwAt (s : State) (n : Nat) (v : KicBank) : (s.setBank n v).fwAt = s.fwAt := rfl
@[simp] theorem State.setBank_iram (s : State) (n : Nat) (v : KicBank) : (s.setBank n v).iram = s.iram := rfl
@[simp] theorem State.setBank_wram (s : State) (n : Nat) (v : KicBank) : (s.setBank n v).wram = s.wram := rfl
@[simp] theorem State.setBank_store (s : State) (n : Nat) (v : KicBank) : (s.setBank n v).store = s.store := rfl
@[simp] theorem State.setBank_iramBad (s : State) (n : Nat) (v : KicBank) : (s.setBank n v).iramBad = s.iramBad := rfl
@[simp] theorem State.setBank_wramBad (s : State) (n : Nat) (v : KicBank) : (s.setBank n v).wramBad = s.wramBad := rfl
@[simp] theorem State.setBank_storeBad (s : State) (n : Nat) (v : KicBank) : (s.setBank n v).storeBad = s.storeBad := rfl
@[simp] theorem State.setBank_keepers (s : State) (n : Nat) (v : KicBank) : (s.setBank n v).keepers = s.keepers := rfl
@[simp] theorem State.setBank_kic (s : State) (n : Nat) (v : KicBank) : (s.setBank n v).kic = s.kic := rfl
@[simp] theorem State.setBank_release (s : State) (n : Nat) (v : KicBank) : (s.setBank n v).release = s.release := rfl
@[simp] theorem State.setBank_sems (s : State) (n : Nat) (v : KicBank) : (s.setBank n v).sems = s.sems := rfl
@[simp] theorem State.setBank_fe (s : State) (n : Nat) (v : KicBank) : (s.setBank n v).fe = s.fe := rfl
@[simp] theorem State.setBank_pairFe (s : State) (n : Nat) (v : KicBank) : (s.setBank n v).pairFe = s.pairFe := rfl
@[simp] theorem State.setBank_pairDc (s : State) (n : Nat) (v : KicBank) : (s.setBank n v).pairDc = s.pairDc := rfl
@[simp] theorem State.setBank_dc (s : State) (n : Nat) (v : KicBank) : (s.setBank n v).dc = s.dc := rfl
@[simp] theorem State.setBank_ss (s : State) (n : Nat) (v : KicBank) : (s.setBank n v).ss = s.ss := rfl
@[simp] theorem State.setBank_arb (s : State) (n : Nat) (v : KicBank) : (s.setBank n v).arb = s.arb := rfl
@[simp] theorem State.setBank_rc (s : State) (n : Nat) (v : KicBank) : (s.setBank n v).rc = s.rc := rfl
@[simp] theorem State.setBank_ce (s : State) (n : Nat) (v : KicBank) : (s.setBank n v).ce = s.ce := rfl
@[simp] theorem State.setBank_io (s : State) (n : Nat) (v : KicBank) : (s.setBank n v).io = s.io := rfl
@[simp] theorem State.setBank_bc (s : State) (n : Nat) (v : KicBank) : (s.setBank n v).bc = s.bc := rfl
@[simp] theorem State.setBank_tw (s : State) (n : Nat) (v : KicBank) : (s.setBank n v).tw = s.tw := rfl
@[simp] theorem State.setBank_img (s : State) (n : Nat) (v : KicBank) : (s.setBank n v).img = s.img := rfl
@[simp] theorem State.setBank_pwr (s : State) (n : Nat) (v : KicBank) : (s.setBank n v).pwr = s.pwr := rfl
@[simp] theorem State.setBank_rst (s : State) (n : Nat) (v : KicBank) : (s.setBank n v).rst = s.rst := rfl
@[simp] theorem State.setBank_integ (s : State) (n : Nat) (v : KicBank) : (s.setBank n v).integ = s.integ := rfl
@[simp] theorem State.setBank_wideCap (s : State) (n : Nat) (v : KicBank) : (s.setBank n v).wideCap = s.wideCap := rfl
@[simp] theorem State.setBank_wideHold (s : State) (n : Nat) (v : KicBank) : (s.setBank n v).wideHold = s.wideHold := rfl
@[simp] theorem State.setBank_rdata (s : State) (n : Nat) (v : KicBank) : (s.setBank n v).rdata = s.rdata := rfl
@[simp] theorem State.setBank_free (s : State) (n : Nat) (v : KicBank) : (s.setBank n v).free = s.free := rfl
@[simp] theorem State.setBank_pending (s : State) (n : Nat) (v : KicBank) : (s.setBank n v).pending = s.pending := rfl
@[simp] theorem nPods_setBank (s : State) (n : Nat) (v : KicBank) : nPods (s.setBank n v) = nPods s := rfl
@[simp] theorem nPairs_setBank (s : State) (n : Nat) (v : KicBank) : nPairs (s.setBank n v) = nPairs s := rfl
@[simp] theorem nBanks_setBank (s : State) (n : Nat) (v : KicBank) : nBanks (s.setBank n v) = nBanks s := rfl
@[simp] theorem nPages_setBank (s : State) (n : Nat) (v : KicBank) : nPages (s.setBank n v) = nPages s := rfl
@[simp] theorem nKeepers_setBank (s : State) (n : Nat) (v : KicBank) : nKeepers (s.setBank n v) = nKeepers s := rfl
@[simp] theorem nPorts_setBank (s : State) (n : Nat) (v : KicBank) : nPorts (s.setBank n v) = nPorts s := rfl
@[simp] theorem nVouts_setBank (s : State) (n : Nat) (v : KicBank) : nVouts (s.setBank n v) = nVouts s := rfl
@[simp] theorem nLoops_setBank (s : State) (n : Nat) (v : KicBank) : nLoops (s.setBank n v) = nLoops s := rfl
@[simp] theorem nLines_setBank (s : State) (n : Nat) (v : KicBank) : nLines (s.setBank n v) = nLines s := rfl
@[simp] theorem busRuns_setBank (s : State) (n : Nat) (v : KicBank) : busRuns (s.setBank n v) = busRuns s := rfl

/-! ## `setPfe` -/

@[simp] theorem State.pfe_setPfe_same (s : State) (n : Nat) (v : PairFe) : (s.setPfe n v).pfe n = v := by
  simp [State.pfe, State.setPfe]
theorem State.pfe_setPfe_ne (s : State) (v : PairFe) {n m : Nat} (h : m ≠ n) : (s.setPfe n v).pfe m = s.pfe m := by
  simp [State.pfe, State.setPfe, tget_tput_ne _ _ _ h]
@[simp] theorem State.keeper_setPfe (s : State) (n : Nat) (v : PairFe) (m : Nat) : (s.setPfe n v).keeper m = s.keeper m := rfl
@[simp] theorem State.bank_setPfe (s : State) (n : Nat) (v : PairFe) (m : Nat) : (s.setPfe n v).bank m = s.bank m := rfl
@[simp] theorem State.pdc_setPfe (s : State) (n : Nat) (v : PairFe) (m : Nat) : (s.setPfe n v).pdc m = s.pdc m := rfl
@[simp] theorem State.strm_setPfe (s : State) (n : Nat) (v : PairFe) (m : Nat) : (s.setPfe n v).strm m = s.strm m := rfl
@[simp] theorem State.agrp_setPfe (s : State) (n : Nat) (v : PairFe) (m : Nat) : (s.setPfe n v).agrp m = s.agrp m := rfl
@[simp] theorem State.pod_setPfe (s : State) (n : Nat) (v : PairFe) (m : Nat) : (s.setPfe n v).pod m = s.pod m := rfl
@[simp] theorem State.port_setPfe (s : State) (n : Nat) (v : PairFe) (m : Nat) : (s.setPfe n v).port m = s.port m := rfl
@[simp] theorem State.lout_setPfe (s : State) (n : Nat) (v : PairFe) (m : Nat) : (s.setPfe n v).lout m = s.lout m := rfl
@[simp] theorem State.chm_setPfe (s : State) (n : Nat) (v : PairFe) (m : Nat) : (s.setPfe n v).chm m = s.chm m := rfl
@[simp] theorem State.page_setPfe (s : State) (n : Nat) (v : PairFe) (m : Nat) : (s.setPfe n v).page m = s.page m := rfl
@[simp] theorem State.setPfe_variant (s : State) (n : Nat) (v : PairFe) : (s.setPfe n v).variant = s.variant := rfl
@[simp] theorem State.setPfe_now (s : State) (n : Nat) (v : PairFe) : (s.setPfe n v).now = s.now := rfl
@[simp] theorem State.setPfe_busM (s : State) (n : Nat) (v : PairFe) : (s.setPfe n v).busM = s.busM := rfl
@[simp] theorem State.setPfe_was (s : State) (n : Nat) (v : PairFe) : (s.setPfe n v).was = s.was := rfl
@[simp] theorem State.setPfe_fw (s : State) (n : Nat) (v : PairFe) : (s.setPfe n v).fw = s.fw := rfl
@[simp] theorem State.setPfe_fwAt (s : State) (n : Nat) (v : PairFe) : (s.setPfe n v).fwAt = s.fwAt := rfl
@[simp] theorem State.setPfe_iram (s : State) (n : Nat) (v : PairFe) : (s.setPfe n v).iram = s.iram := rfl
@[simp] theorem State.setPfe_wram (s : State) (n : Nat) (v : PairFe) : (s.setPfe n v).wram = s.wram := rfl
@[simp] theorem State.setPfe_store (s : State) (n : Nat) (v : PairFe) : (s.setPfe n v).store = s.store := rfl
@[simp] theorem State.setPfe_iramBad (s : State) (n : Nat) (v : PairFe) : (s.setPfe n v).iramBad = s.iramBad := rfl
@[simp] theorem State.setPfe_wramBad (s : State) (n : Nat) (v : PairFe) : (s.setPfe n v).wramBad = s.wramBad := rfl
@[simp] theorem State.setPfe_storeBad (s : State) (n : Nat) (v : PairFe) : (s.setPfe n v).storeBad = s.storeBad := rfl
@[simp] theorem State.setPfe_keepers (s : State) (n : Nat) (v : PairFe) : (s.setPfe n v).keepers = s.keepers := rfl
@[simp] theorem State.setPfe_banks (s : State) (n : Nat) (v : PairFe) : (s.setPfe n v).banks = s.banks := rfl
@[simp] theorem State.setPfe_kic (s : State) (n : Nat) (v : PairFe) : (s.setPfe n v).kic = s.kic := rfl
@[simp] theorem State.setPfe_release (s : State) (n : Nat) (v : PairFe) : (s.setPfe n v).release = s.release := rfl
@[simp] theorem State.setPfe_sems (s : State) (n : Nat) (v : PairFe) : (s.setPfe n v).sems = s.sems := rfl
@[simp] theorem State.setPfe_fe (s : State) (n : Nat) (v : PairFe) : (s.setPfe n v).fe = s.fe := rfl
@[simp] theorem State.setPfe_pairDc (s : State) (n : Nat) (v : PairFe) : (s.setPfe n v).pairDc = s.pairDc := rfl
@[simp] theorem State.setPfe_dc (s : State) (n : Nat) (v : PairFe) : (s.setPfe n v).dc = s.dc := rfl
@[simp] theorem State.setPfe_ss (s : State) (n : Nat) (v : PairFe) : (s.setPfe n v).ss = s.ss := rfl
@[simp] theorem State.setPfe_arb (s : State) (n : Nat) (v : PairFe) : (s.setPfe n v).arb = s.arb := rfl
@[simp] theorem State.setPfe_rc (s : State) (n : Nat) (v : PairFe) : (s.setPfe n v).rc = s.rc := rfl
@[simp] theorem State.setPfe_ce (s : State) (n : Nat) (v : PairFe) : (s.setPfe n v).ce = s.ce := rfl
@[simp] theorem State.setPfe_io (s : State) (n : Nat) (v : PairFe) : (s.setPfe n v).io = s.io := rfl
@[simp] theorem State.setPfe_bc (s : State) (n : Nat) (v : PairFe) : (s.setPfe n v).bc = s.bc := rfl
@[simp] theorem State.setPfe_tw (s : State) (n : Nat) (v : PairFe) : (s.setPfe n v).tw = s.tw := rfl
@[simp] theorem State.setPfe_img (s : State) (n : Nat) (v : PairFe) : (s.setPfe n v).img = s.img := rfl
@[simp] theorem State.setPfe_pwr (s : State) (n : Nat) (v : PairFe) : (s.setPfe n v).pwr = s.pwr := rfl
@[simp] theorem State.setPfe_rst (s : State) (n : Nat) (v : PairFe) : (s.setPfe n v).rst = s.rst := rfl
@[simp] theorem State.setPfe_integ (s : State) (n : Nat) (v : PairFe) : (s.setPfe n v).integ = s.integ := rfl
@[simp] theorem State.setPfe_wideCap (s : State) (n : Nat) (v : PairFe) : (s.setPfe n v).wideCap = s.wideCap := rfl
@[simp] theorem State.setPfe_wideHold (s : State) (n : Nat) (v : PairFe) : (s.setPfe n v).wideHold = s.wideHold := rfl
@[simp] theorem State.setPfe_rdata (s : State) (n : Nat) (v : PairFe) : (s.setPfe n v).rdata = s.rdata := rfl
@[simp] theorem State.setPfe_free (s : State) (n : Nat) (v : PairFe) : (s.setPfe n v).free = s.free := rfl
@[simp] theorem State.setPfe_pending (s : State) (n : Nat) (v : PairFe) : (s.setPfe n v).pending = s.pending := rfl
@[simp] theorem nPods_setPfe (s : State) (n : Nat) (v : PairFe) : nPods (s.setPfe n v) = nPods s := rfl
@[simp] theorem nPairs_setPfe (s : State) (n : Nat) (v : PairFe) : nPairs (s.setPfe n v) = nPairs s := rfl
@[simp] theorem nBanks_setPfe (s : State) (n : Nat) (v : PairFe) : nBanks (s.setPfe n v) = nBanks s := rfl
@[simp] theorem nPages_setPfe (s : State) (n : Nat) (v : PairFe) : nPages (s.setPfe n v) = nPages s := rfl
@[simp] theorem nKeepers_setPfe (s : State) (n : Nat) (v : PairFe) : nKeepers (s.setPfe n v) = nKeepers s := rfl
@[simp] theorem nPorts_setPfe (s : State) (n : Nat) (v : PairFe) : nPorts (s.setPfe n v) = nPorts s := rfl
@[simp] theorem nVouts_setPfe (s : State) (n : Nat) (v : PairFe) : nVouts (s.setPfe n v) = nVouts s := rfl
@[simp] theorem nLoops_setPfe (s : State) (n : Nat) (v : PairFe) : nLoops (s.setPfe n v) = nLoops s := rfl
@[simp] theorem nLines_setPfe (s : State) (n : Nat) (v : PairFe) : nLines (s.setPfe n v) = nLines s := rfl
@[simp] theorem busRuns_setPfe (s : State) (n : Nat) (v : PairFe) : busRuns (s.setPfe n v) = busRuns s := rfl

/-! ## `setPdc` -/

@[simp] theorem State.pdc_setPdc_same (s : State) (n : Nat) (v : PairDc) : (s.setPdc n v).pdc n = v := by
  simp [State.pdc, State.setPdc]
theorem State.pdc_setPdc_ne (s : State) (v : PairDc) {n m : Nat} (h : m ≠ n) : (s.setPdc n v).pdc m = s.pdc m := by
  simp [State.pdc, State.setPdc, tget_tput_ne _ _ _ h]
@[simp] theorem State.keeper_setPdc (s : State) (n : Nat) (v : PairDc) (m : Nat) : (s.setPdc n v).keeper m = s.keeper m := rfl
@[simp] theorem State.bank_setPdc (s : State) (n : Nat) (v : PairDc) (m : Nat) : (s.setPdc n v).bank m = s.bank m := rfl
@[simp] theorem State.pfe_setPdc (s : State) (n : Nat) (v : PairDc) (m : Nat) : (s.setPdc n v).pfe m = s.pfe m := rfl
@[simp] theorem State.strm_setPdc (s : State) (n : Nat) (v : PairDc) (m : Nat) : (s.setPdc n v).strm m = s.strm m := rfl
@[simp] theorem State.agrp_setPdc (s : State) (n : Nat) (v : PairDc) (m : Nat) : (s.setPdc n v).agrp m = s.agrp m := rfl
@[simp] theorem State.pod_setPdc (s : State) (n : Nat) (v : PairDc) (m : Nat) : (s.setPdc n v).pod m = s.pod m := rfl
@[simp] theorem State.port_setPdc (s : State) (n : Nat) (v : PairDc) (m : Nat) : (s.setPdc n v).port m = s.port m := rfl
@[simp] theorem State.lout_setPdc (s : State) (n : Nat) (v : PairDc) (m : Nat) : (s.setPdc n v).lout m = s.lout m := rfl
@[simp] theorem State.chm_setPdc (s : State) (n : Nat) (v : PairDc) (m : Nat) : (s.setPdc n v).chm m = s.chm m := rfl
@[simp] theorem State.page_setPdc (s : State) (n : Nat) (v : PairDc) (m : Nat) : (s.setPdc n v).page m = s.page m := rfl
@[simp] theorem State.setPdc_variant (s : State) (n : Nat) (v : PairDc) : (s.setPdc n v).variant = s.variant := rfl
@[simp] theorem State.setPdc_now (s : State) (n : Nat) (v : PairDc) : (s.setPdc n v).now = s.now := rfl
@[simp] theorem State.setPdc_busM (s : State) (n : Nat) (v : PairDc) : (s.setPdc n v).busM = s.busM := rfl
@[simp] theorem State.setPdc_was (s : State) (n : Nat) (v : PairDc) : (s.setPdc n v).was = s.was := rfl
@[simp] theorem State.setPdc_fw (s : State) (n : Nat) (v : PairDc) : (s.setPdc n v).fw = s.fw := rfl
@[simp] theorem State.setPdc_fwAt (s : State) (n : Nat) (v : PairDc) : (s.setPdc n v).fwAt = s.fwAt := rfl
@[simp] theorem State.setPdc_iram (s : State) (n : Nat) (v : PairDc) : (s.setPdc n v).iram = s.iram := rfl
@[simp] theorem State.setPdc_wram (s : State) (n : Nat) (v : PairDc) : (s.setPdc n v).wram = s.wram := rfl
@[simp] theorem State.setPdc_store (s : State) (n : Nat) (v : PairDc) : (s.setPdc n v).store = s.store := rfl
@[simp] theorem State.setPdc_iramBad (s : State) (n : Nat) (v : PairDc) : (s.setPdc n v).iramBad = s.iramBad := rfl
@[simp] theorem State.setPdc_wramBad (s : State) (n : Nat) (v : PairDc) : (s.setPdc n v).wramBad = s.wramBad := rfl
@[simp] theorem State.setPdc_storeBad (s : State) (n : Nat) (v : PairDc) : (s.setPdc n v).storeBad = s.storeBad := rfl
@[simp] theorem State.setPdc_keepers (s : State) (n : Nat) (v : PairDc) : (s.setPdc n v).keepers = s.keepers := rfl
@[simp] theorem State.setPdc_banks (s : State) (n : Nat) (v : PairDc) : (s.setPdc n v).banks = s.banks := rfl
@[simp] theorem State.setPdc_kic (s : State) (n : Nat) (v : PairDc) : (s.setPdc n v).kic = s.kic := rfl
@[simp] theorem State.setPdc_release (s : State) (n : Nat) (v : PairDc) : (s.setPdc n v).release = s.release := rfl
@[simp] theorem State.setPdc_sems (s : State) (n : Nat) (v : PairDc) : (s.setPdc n v).sems = s.sems := rfl
@[simp] theorem State.setPdc_fe (s : State) (n : Nat) (v : PairDc) : (s.setPdc n v).fe = s.fe := rfl
@[simp] theorem State.setPdc_pairFe (s : State) (n : Nat) (v : PairDc) : (s.setPdc n v).pairFe = s.pairFe := rfl
@[simp] theorem State.setPdc_dc (s : State) (n : Nat) (v : PairDc) : (s.setPdc n v).dc = s.dc := rfl
@[simp] theorem State.setPdc_ss (s : State) (n : Nat) (v : PairDc) : (s.setPdc n v).ss = s.ss := rfl
@[simp] theorem State.setPdc_arb (s : State) (n : Nat) (v : PairDc) : (s.setPdc n v).arb = s.arb := rfl
@[simp] theorem State.setPdc_rc (s : State) (n : Nat) (v : PairDc) : (s.setPdc n v).rc = s.rc := rfl
@[simp] theorem State.setPdc_ce (s : State) (n : Nat) (v : PairDc) : (s.setPdc n v).ce = s.ce := rfl
@[simp] theorem State.setPdc_io (s : State) (n : Nat) (v : PairDc) : (s.setPdc n v).io = s.io := rfl
@[simp] theorem State.setPdc_bc (s : State) (n : Nat) (v : PairDc) : (s.setPdc n v).bc = s.bc := rfl
@[simp] theorem State.setPdc_tw (s : State) (n : Nat) (v : PairDc) : (s.setPdc n v).tw = s.tw := rfl
@[simp] theorem State.setPdc_img (s : State) (n : Nat) (v : PairDc) : (s.setPdc n v).img = s.img := rfl
@[simp] theorem State.setPdc_pwr (s : State) (n : Nat) (v : PairDc) : (s.setPdc n v).pwr = s.pwr := rfl
@[simp] theorem State.setPdc_rst (s : State) (n : Nat) (v : PairDc) : (s.setPdc n v).rst = s.rst := rfl
@[simp] theorem State.setPdc_integ (s : State) (n : Nat) (v : PairDc) : (s.setPdc n v).integ = s.integ := rfl
@[simp] theorem State.setPdc_wideCap (s : State) (n : Nat) (v : PairDc) : (s.setPdc n v).wideCap = s.wideCap := rfl
@[simp] theorem State.setPdc_wideHold (s : State) (n : Nat) (v : PairDc) : (s.setPdc n v).wideHold = s.wideHold := rfl
@[simp] theorem State.setPdc_rdata (s : State) (n : Nat) (v : PairDc) : (s.setPdc n v).rdata = s.rdata := rfl
@[simp] theorem State.setPdc_free (s : State) (n : Nat) (v : PairDc) : (s.setPdc n v).free = s.free := rfl
@[simp] theorem State.setPdc_pending (s : State) (n : Nat) (v : PairDc) : (s.setPdc n v).pending = s.pending := rfl
@[simp] theorem nPods_setPdc (s : State) (n : Nat) (v : PairDc) : nPods (s.setPdc n v) = nPods s := rfl
@[simp] theorem nPairs_setPdc (s : State) (n : Nat) (v : PairDc) : nPairs (s.setPdc n v) = nPairs s := rfl
@[simp] theorem nBanks_setPdc (s : State) (n : Nat) (v : PairDc) : nBanks (s.setPdc n v) = nBanks s := rfl
@[simp] theorem nPages_setPdc (s : State) (n : Nat) (v : PairDc) : nPages (s.setPdc n v) = nPages s := rfl
@[simp] theorem nKeepers_setPdc (s : State) (n : Nat) (v : PairDc) : nKeepers (s.setPdc n v) = nKeepers s := rfl
@[simp] theorem nPorts_setPdc (s : State) (n : Nat) (v : PairDc) : nPorts (s.setPdc n v) = nPorts s := rfl
@[simp] theorem nVouts_setPdc (s : State) (n : Nat) (v : PairDc) : nVouts (s.setPdc n v) = nVouts s := rfl
@[simp] theorem nLoops_setPdc (s : State) (n : Nat) (v : PairDc) : nLoops (s.setPdc n v) = nLoops s := rfl
@[simp] theorem nLines_setPdc (s : State) (n : Nat) (v : PairDc) : nLines (s.setPdc n v) = nLines s := rfl
@[simp] theorem busRuns_setPdc (s : State) (n : Nat) (v : PairDc) : busRuns (s.setPdc n v) = busRuns s := rfl

/-! ## `setStrm` -/

@[simp] theorem State.strm_setStrm_same (s : State) (n : Nat) (v : Stream) : (s.setStrm n v).strm n = v := by
  simp [State.strm, State.setStrm]
theorem State.strm_setStrm_ne (s : State) (v : Stream) {n m : Nat} (h : m ≠ n) : (s.setStrm n v).strm m = s.strm m := by
  simp [State.strm, State.setStrm, tget_tput_ne _ _ _ h]
@[simp] theorem State.keeper_setStrm (s : State) (n : Nat) (v : Stream) (m : Nat) : (s.setStrm n v).keeper m = s.keeper m := rfl
@[simp] theorem State.bank_setStrm (s : State) (n : Nat) (v : Stream) (m : Nat) : (s.setStrm n v).bank m = s.bank m := rfl
@[simp] theorem State.pfe_setStrm (s : State) (n : Nat) (v : Stream) (m : Nat) : (s.setStrm n v).pfe m = s.pfe m := rfl
@[simp] theorem State.pdc_setStrm (s : State) (n : Nat) (v : Stream) (m : Nat) : (s.setStrm n v).pdc m = s.pdc m := rfl
@[simp] theorem State.agrp_setStrm (s : State) (n : Nat) (v : Stream) (m : Nat) : (s.setStrm n v).agrp m = s.agrp m := rfl
@[simp] theorem State.pod_setStrm (s : State) (n : Nat) (v : Stream) (m : Nat) : (s.setStrm n v).pod m = s.pod m := rfl
@[simp] theorem State.port_setStrm (s : State) (n : Nat) (v : Stream) (m : Nat) : (s.setStrm n v).port m = s.port m := rfl
@[simp] theorem State.lout_setStrm (s : State) (n : Nat) (v : Stream) (m : Nat) : (s.setStrm n v).lout m = s.lout m := rfl
@[simp] theorem State.chm_setStrm (s : State) (n : Nat) (v : Stream) (m : Nat) : (s.setStrm n v).chm m = s.chm m := rfl
@[simp] theorem State.page_setStrm (s : State) (n : Nat) (v : Stream) (m : Nat) : (s.setStrm n v).page m = s.page m := rfl
@[simp] theorem State.setStrm_variant (s : State) (n : Nat) (v : Stream) : (s.setStrm n v).variant = s.variant := rfl
@[simp] theorem State.setStrm_now (s : State) (n : Nat) (v : Stream) : (s.setStrm n v).now = s.now := rfl
@[simp] theorem State.setStrm_busM (s : State) (n : Nat) (v : Stream) : (s.setStrm n v).busM = s.busM := rfl
@[simp] theorem State.setStrm_was (s : State) (n : Nat) (v : Stream) : (s.setStrm n v).was = s.was := rfl
@[simp] theorem State.setStrm_fw (s : State) (n : Nat) (v : Stream) : (s.setStrm n v).fw = s.fw := rfl
@[simp] theorem State.setStrm_fwAt (s : State) (n : Nat) (v : Stream) : (s.setStrm n v).fwAt = s.fwAt := rfl
@[simp] theorem State.setStrm_iram (s : State) (n : Nat) (v : Stream) : (s.setStrm n v).iram = s.iram := rfl
@[simp] theorem State.setStrm_wram (s : State) (n : Nat) (v : Stream) : (s.setStrm n v).wram = s.wram := rfl
@[simp] theorem State.setStrm_store (s : State) (n : Nat) (v : Stream) : (s.setStrm n v).store = s.store := rfl
@[simp] theorem State.setStrm_iramBad (s : State) (n : Nat) (v : Stream) : (s.setStrm n v).iramBad = s.iramBad := rfl
@[simp] theorem State.setStrm_wramBad (s : State) (n : Nat) (v : Stream) : (s.setStrm n v).wramBad = s.wramBad := rfl
@[simp] theorem State.setStrm_storeBad (s : State) (n : Nat) (v : Stream) : (s.setStrm n v).storeBad = s.storeBad := rfl
@[simp] theorem State.setStrm_keepers (s : State) (n : Nat) (v : Stream) : (s.setStrm n v).keepers = s.keepers := rfl
@[simp] theorem State.setStrm_banks (s : State) (n : Nat) (v : Stream) : (s.setStrm n v).banks = s.banks := rfl
@[simp] theorem State.setStrm_kic (s : State) (n : Nat) (v : Stream) : (s.setStrm n v).kic = s.kic := rfl
@[simp] theorem State.setStrm_release (s : State) (n : Nat) (v : Stream) : (s.setStrm n v).release = s.release := rfl
@[simp] theorem State.setStrm_sems (s : State) (n : Nat) (v : Stream) : (s.setStrm n v).sems = s.sems := rfl
@[simp] theorem State.setStrm_fe (s : State) (n : Nat) (v : Stream) : (s.setStrm n v).fe = s.fe := rfl
@[simp] theorem State.setStrm_pairFe (s : State) (n : Nat) (v : Stream) : (s.setStrm n v).pairFe = s.pairFe := rfl
@[simp] theorem State.setStrm_pairDc (s : State) (n : Nat) (v : Stream) : (s.setStrm n v).pairDc = s.pairDc := rfl
@[simp] theorem State.setStrm_dc (s : State) (n : Nat) (v : Stream) : (s.setStrm n v).dc = s.dc := rfl
@[simp] theorem State.setStrm_arb (s : State) (n : Nat) (v : Stream) : (s.setStrm n v).arb = s.arb := rfl
@[simp] theorem State.setStrm_rc (s : State) (n : Nat) (v : Stream) : (s.setStrm n v).rc = s.rc := rfl
@[simp] theorem State.setStrm_ce (s : State) (n : Nat) (v : Stream) : (s.setStrm n v).ce = s.ce := rfl
@[simp] theorem State.setStrm_io (s : State) (n : Nat) (v : Stream) : (s.setStrm n v).io = s.io := rfl
@[simp] theorem State.setStrm_bc (s : State) (n : Nat) (v : Stream) : (s.setStrm n v).bc = s.bc := rfl
@[simp] theorem State.setStrm_tw (s : State) (n : Nat) (v : Stream) : (s.setStrm n v).tw = s.tw := rfl
@[simp] theorem State.setStrm_img (s : State) (n : Nat) (v : Stream) : (s.setStrm n v).img = s.img := rfl
@[simp] theorem State.setStrm_pwr (s : State) (n : Nat) (v : Stream) : (s.setStrm n v).pwr = s.pwr := rfl
@[simp] theorem State.setStrm_rst (s : State) (n : Nat) (v : Stream) : (s.setStrm n v).rst = s.rst := rfl
@[simp] theorem State.setStrm_integ (s : State) (n : Nat) (v : Stream) : (s.setStrm n v).integ = s.integ := rfl
@[simp] theorem State.setStrm_wideCap (s : State) (n : Nat) (v : Stream) : (s.setStrm n v).wideCap = s.wideCap := rfl
@[simp] theorem State.setStrm_wideHold (s : State) (n : Nat) (v : Stream) : (s.setStrm n v).wideHold = s.wideHold := rfl
@[simp] theorem State.setStrm_rdata (s : State) (n : Nat) (v : Stream) : (s.setStrm n v).rdata = s.rdata := rfl
@[simp] theorem State.setStrm_free (s : State) (n : Nat) (v : Stream) : (s.setStrm n v).free = s.free := rfl
@[simp] theorem State.setStrm_pending (s : State) (n : Nat) (v : Stream) : (s.setStrm n v).pending = s.pending := rfl
@[simp] theorem State.setStrm_ss_pages (s : State) (n : Nat) (v : Stream) : (s.setStrm n v).ss.pages = s.ss.pages := rfl
@[simp] theorem State.setStrm_ss_ring (s : State) (n : Nat) (v : Stream) : (s.setStrm n v).ss.ring = s.ss.ring := rfl
@[simp] theorem State.setStrm_ss_psample (s : State) (n : Nat) (v : Stream) : (s.setStrm n v).ss.psample = s.ss.psample := rfl
@[simp] theorem State.setStrm_ss_pcoarse (s : State) (n : Nat) (v : Stream) : (s.setStrm n v).ss.pcoarse = s.ss.pcoarse := rfl
@[simp] theorem State.setStrm_ss_lease (s : State) (n : Nat) (v : Stream) : (s.setStrm n v).ss.lease = s.ss.lease := rfl
@[simp] theorem State.setStrm_ss_freePage (s : State) (n : Nat) (v : Stream) : (s.setStrm n v).ss.freePage = s.ss.freePage := rfl
@[simp] theorem State.setStrm_ss_freeReason (s : State) (n : Nat) (v : Stream) : (s.setStrm n v).ss.freeReason = s.ss.freeReason := rfl
@[simp] theorem State.setStrm_ss_freeFpage (s : State) (n : Nat) (v : Stream) : (s.setStrm n v).ss.freeFpage = s.ss.freeFpage := rfl
@[simp] theorem State.setStrm_ss_freeFcnt (s : State) (n : Nat) (v : Stream) : (s.setStrm n v).ss.freeFcnt = s.ss.freeFcnt := rfl
@[simp] theorem State.setStrm_ss_flt (s : State) (n : Nat) (v : Stream) : (s.setStrm n v).ss.flt = s.ss.flt := rfl
@[simp] theorem State.setStrm_ss_lastOwner (s : State) (n : Nat) (v : Stream) : (s.setStrm n v).ss.lastOwner = s.ss.lastOwner := rfl
@[simp] theorem State.setStrm_ss_fltIe (s : State) (n : Nat) (v : Stream) : (s.setStrm n v).ss.fltIe = s.ss.fltIe := rfl
@[simp] theorem State.setStrm_ss_scrubEn (s : State) (n : Nat) (v : Stream) : (s.setStrm n v).ss.scrubEn = s.ss.scrubEn := rfl
@[simp] theorem State.setStrm_ss_scrubLap (s : State) (n : Nat) (v : Stream) : (s.setStrm n v).ss.scrubLap = s.ss.scrubLap := rfl
@[simp] theorem State.setStrm_ss_scrubSkip (s : State) (n : Nat) (v : Stream) : (s.setStrm n v).ss.scrubSkip = s.ss.scrubSkip := rfl
@[simp] theorem State.setStrm_ss_scrubPos (s : State) (n : Nat) (v : Stream) : (s.setStrm n v).ss.scrubPos = s.ss.scrubPos := rfl
@[simp] theorem State.setStrm_ss_scrubStart (s : State) (n : Nat) (v : Stream) : (s.setStrm n v).ss.scrubStart = s.ss.scrubStart := rfl
@[simp] theorem State.setStrm_ss_iscrubEn (s : State) (n : Nat) (v : Stream) : (s.setStrm n v).ss.iscrubEn = s.ss.iscrubEn := rfl
@[simp] theorem State.setStrm_ss_iscrubRate (s : State) (n : Nat) (v : Stream) : (s.setStrm n v).ss.iscrubRate = s.ss.iscrubRate := rfl
@[simp] theorem State.setStrm_ss_iscrubPos (s : State) (n : Nat) (v : Stream) : (s.setStrm n v).ss.iscrubPos = s.ss.iscrubPos := rfl
@[simp] theorem State.setStrm_ss_iscrubAt (s : State) (n : Nat) (v : Stream) : (s.setStrm n v).ss.iscrubAt = s.ss.iscrubAt := rfl
@[simp] theorem State.setStrm_ss_imgAddr (s : State) (n : Nat) (v : Stream) : (s.setStrm n v).ss.imgAddr = s.ss.imgAddr := rfl
@[simp] theorem State.setStrm_ss_imgRep (s : State) (n : Nat) (v : Stream) : (s.setStrm n v).ss.imgRep = s.ss.imgRep := rfl
@[simp] theorem State.setStrm_ss_wramAddr (s : State) (n : Nat) (v : Stream) : (s.setStrm n v).ss.wramAddr = s.ss.wramAddr := rfl
@[simp] theorem State.setStrm_ss_wramCnt (s : State) (n : Nat) (v : Stream) : (s.setStrm n v).ss.wramCnt = s.ss.wramCnt := rfl
@[simp] theorem State.setStrm_ss_elog (s : State) (n : Nat) (v : Stream) : (s.setStrm n v).ss.elog = s.ss.elog := rfl
@[simp] theorem State.setStrm_ss_elogOvf (s : State) (n : Nat) (v : Stream) : (s.setStrm n v).ss.elogOvf = s.ss.elogOvf := rfl
@[simp] theorem State.setStrm_ss_ready (s : State) (n : Nat) (v : Stream) : (s.setStrm n v).ss.ready = s.ss.ready := rfl
@[simp] theorem State.setStrm_ss_fetches (s : State) (n : Nat) (v : Stream) : (s.setStrm n v).ss.fetches = s.ss.fetches := rfl
@[simp] theorem State.setStrm_ss_refetches (s : State) (n : Nat) (v : Stream) : (s.setStrm n v).ss.refetches = s.ss.refetches := rfl
@[simp] theorem State.setStrm_ss_ord (s : State) (n : Nat) (v : Stream) : (s.setStrm n v).ss.ord = s.ss.ord := rfl
@[simp] theorem nPods_setStrm (s : State) (n : Nat) (v : Stream) : nPods (s.setStrm n v) = nPods s := rfl
@[simp] theorem nPairs_setStrm (s : State) (n : Nat) (v : Stream) : nPairs (s.setStrm n v) = nPairs s := rfl
@[simp] theorem nBanks_setStrm (s : State) (n : Nat) (v : Stream) : nBanks (s.setStrm n v) = nBanks s := rfl
@[simp] theorem nPages_setStrm (s : State) (n : Nat) (v : Stream) : nPages (s.setStrm n v) = nPages s := rfl
@[simp] theorem nKeepers_setStrm (s : State) (n : Nat) (v : Stream) : nKeepers (s.setStrm n v) = nKeepers s := rfl
@[simp] theorem nPorts_setStrm (s : State) (n : Nat) (v : Stream) : nPorts (s.setStrm n v) = nPorts s := rfl
@[simp] theorem nVouts_setStrm (s : State) (n : Nat) (v : Stream) : nVouts (s.setStrm n v) = nVouts s := rfl
@[simp] theorem nLoops_setStrm (s : State) (n : Nat) (v : Stream) : nLoops (s.setStrm n v) = nLoops s := rfl
@[simp] theorem nLines_setStrm (s : State) (n : Nat) (v : Stream) : nLines (s.setStrm n v) = nLines s := rfl
@[simp] theorem busRuns_setStrm (s : State) (n : Nat) (v : Stream) : busRuns (s.setStrm n v) = busRuns s := rfl

/-! ## `setAgrp` -/

@[simp] theorem State.agrp_setAgrp_same (s : State) (n : Nat) (v : ArbGroup) : (s.setAgrp n v).agrp n = v := by
  simp [State.agrp, State.setAgrp]
theorem State.agrp_setAgrp_ne (s : State) (v : ArbGroup) {n m : Nat} (h : m ≠ n) : (s.setAgrp n v).agrp m = s.agrp m := by
  simp [State.agrp, State.setAgrp, tget_tput_ne _ _ _ h]
@[simp] theorem State.keeper_setAgrp (s : State) (n : Nat) (v : ArbGroup) (m : Nat) : (s.setAgrp n v).keeper m = s.keeper m := rfl
@[simp] theorem State.bank_setAgrp (s : State) (n : Nat) (v : ArbGroup) (m : Nat) : (s.setAgrp n v).bank m = s.bank m := rfl
@[simp] theorem State.pfe_setAgrp (s : State) (n : Nat) (v : ArbGroup) (m : Nat) : (s.setAgrp n v).pfe m = s.pfe m := rfl
@[simp] theorem State.pdc_setAgrp (s : State) (n : Nat) (v : ArbGroup) (m : Nat) : (s.setAgrp n v).pdc m = s.pdc m := rfl
@[simp] theorem State.strm_setAgrp (s : State) (n : Nat) (v : ArbGroup) (m : Nat) : (s.setAgrp n v).strm m = s.strm m := rfl
@[simp] theorem State.pod_setAgrp (s : State) (n : Nat) (v : ArbGroup) (m : Nat) : (s.setAgrp n v).pod m = s.pod m := rfl
@[simp] theorem State.port_setAgrp (s : State) (n : Nat) (v : ArbGroup) (m : Nat) : (s.setAgrp n v).port m = s.port m := rfl
@[simp] theorem State.lout_setAgrp (s : State) (n : Nat) (v : ArbGroup) (m : Nat) : (s.setAgrp n v).lout m = s.lout m := rfl
@[simp] theorem State.chm_setAgrp (s : State) (n : Nat) (v : ArbGroup) (m : Nat) : (s.setAgrp n v).chm m = s.chm m := rfl
@[simp] theorem State.page_setAgrp (s : State) (n : Nat) (v : ArbGroup) (m : Nat) : (s.setAgrp n v).page m = s.page m := rfl
@[simp] theorem State.setAgrp_variant (s : State) (n : Nat) (v : ArbGroup) : (s.setAgrp n v).variant = s.variant := rfl
@[simp] theorem State.setAgrp_now (s : State) (n : Nat) (v : ArbGroup) : (s.setAgrp n v).now = s.now := rfl
@[simp] theorem State.setAgrp_busM (s : State) (n : Nat) (v : ArbGroup) : (s.setAgrp n v).busM = s.busM := rfl
@[simp] theorem State.setAgrp_was (s : State) (n : Nat) (v : ArbGroup) : (s.setAgrp n v).was = s.was := rfl
@[simp] theorem State.setAgrp_fw (s : State) (n : Nat) (v : ArbGroup) : (s.setAgrp n v).fw = s.fw := rfl
@[simp] theorem State.setAgrp_fwAt (s : State) (n : Nat) (v : ArbGroup) : (s.setAgrp n v).fwAt = s.fwAt := rfl
@[simp] theorem State.setAgrp_iram (s : State) (n : Nat) (v : ArbGroup) : (s.setAgrp n v).iram = s.iram := rfl
@[simp] theorem State.setAgrp_wram (s : State) (n : Nat) (v : ArbGroup) : (s.setAgrp n v).wram = s.wram := rfl
@[simp] theorem State.setAgrp_store (s : State) (n : Nat) (v : ArbGroup) : (s.setAgrp n v).store = s.store := rfl
@[simp] theorem State.setAgrp_iramBad (s : State) (n : Nat) (v : ArbGroup) : (s.setAgrp n v).iramBad = s.iramBad := rfl
@[simp] theorem State.setAgrp_wramBad (s : State) (n : Nat) (v : ArbGroup) : (s.setAgrp n v).wramBad = s.wramBad := rfl
@[simp] theorem State.setAgrp_storeBad (s : State) (n : Nat) (v : ArbGroup) : (s.setAgrp n v).storeBad = s.storeBad := rfl
@[simp] theorem State.setAgrp_keepers (s : State) (n : Nat) (v : ArbGroup) : (s.setAgrp n v).keepers = s.keepers := rfl
@[simp] theorem State.setAgrp_banks (s : State) (n : Nat) (v : ArbGroup) : (s.setAgrp n v).banks = s.banks := rfl
@[simp] theorem State.setAgrp_kic (s : State) (n : Nat) (v : ArbGroup) : (s.setAgrp n v).kic = s.kic := rfl
@[simp] theorem State.setAgrp_release (s : State) (n : Nat) (v : ArbGroup) : (s.setAgrp n v).release = s.release := rfl
@[simp] theorem State.setAgrp_sems (s : State) (n : Nat) (v : ArbGroup) : (s.setAgrp n v).sems = s.sems := rfl
@[simp] theorem State.setAgrp_fe (s : State) (n : Nat) (v : ArbGroup) : (s.setAgrp n v).fe = s.fe := rfl
@[simp] theorem State.setAgrp_pairFe (s : State) (n : Nat) (v : ArbGroup) : (s.setAgrp n v).pairFe = s.pairFe := rfl
@[simp] theorem State.setAgrp_pairDc (s : State) (n : Nat) (v : ArbGroup) : (s.setAgrp n v).pairDc = s.pairDc := rfl
@[simp] theorem State.setAgrp_dc (s : State) (n : Nat) (v : ArbGroup) : (s.setAgrp n v).dc = s.dc := rfl
@[simp] theorem State.setAgrp_ss (s : State) (n : Nat) (v : ArbGroup) : (s.setAgrp n v).ss = s.ss := rfl
@[simp] theorem State.setAgrp_rc (s : State) (n : Nat) (v : ArbGroup) : (s.setAgrp n v).rc = s.rc := rfl
@[simp] theorem State.setAgrp_ce (s : State) (n : Nat) (v : ArbGroup) : (s.setAgrp n v).ce = s.ce := rfl
@[simp] theorem State.setAgrp_io (s : State) (n : Nat) (v : ArbGroup) : (s.setAgrp n v).io = s.io := rfl
@[simp] theorem State.setAgrp_bc (s : State) (n : Nat) (v : ArbGroup) : (s.setAgrp n v).bc = s.bc := rfl
@[simp] theorem State.setAgrp_tw (s : State) (n : Nat) (v : ArbGroup) : (s.setAgrp n v).tw = s.tw := rfl
@[simp] theorem State.setAgrp_img (s : State) (n : Nat) (v : ArbGroup) : (s.setAgrp n v).img = s.img := rfl
@[simp] theorem State.setAgrp_pwr (s : State) (n : Nat) (v : ArbGroup) : (s.setAgrp n v).pwr = s.pwr := rfl
@[simp] theorem State.setAgrp_rst (s : State) (n : Nat) (v : ArbGroup) : (s.setAgrp n v).rst = s.rst := rfl
@[simp] theorem State.setAgrp_integ (s : State) (n : Nat) (v : ArbGroup) : (s.setAgrp n v).integ = s.integ := rfl
@[simp] theorem State.setAgrp_wideCap (s : State) (n : Nat) (v : ArbGroup) : (s.setAgrp n v).wideCap = s.wideCap := rfl
@[simp] theorem State.setAgrp_wideHold (s : State) (n : Nat) (v : ArbGroup) : (s.setAgrp n v).wideHold = s.wideHold := rfl
@[simp] theorem State.setAgrp_rdata (s : State) (n : Nat) (v : ArbGroup) : (s.setAgrp n v).rdata = s.rdata := rfl
@[simp] theorem State.setAgrp_free (s : State) (n : Nat) (v : ArbGroup) : (s.setAgrp n v).free = s.free := rfl
@[simp] theorem State.setAgrp_pending (s : State) (n : Nat) (v : ArbGroup) : (s.setAgrp n v).pending = s.pending := rfl
@[simp] theorem State.setAgrp_arb_hint6 (s : State) (n : Nat) (v : ArbGroup) : (s.setAgrp n v).arb.hint6 = s.arb.hint6 := rfl
@[simp] theorem State.setAgrp_arb_hint7 (s : State) (n : Nat) (v : ArbGroup) : (s.setAgrp n v).arb.hint7 = s.arb.hint7 := rfl
@[simp] theorem State.setAgrp_arb_holdMax (s : State) (n : Nat) (v : ArbGroup) : (s.setAgrp n v).arb.holdMax = s.arb.holdMax := rfl
@[simp] theorem State.setAgrp_arb_block (s : State) (n : Nat) (v : ArbGroup) : (s.setAgrp n v).arb.block = s.arb.block := rfl
@[simp] theorem State.setAgrp_arb_cutIe (s : State) (n : Nat) (v : ArbGroup) : (s.setAgrp n v).arb.cutIe = s.arb.cutIe := rfl
@[simp] theorem State.setAgrp_arb_hintThr (s : State) (n : Nat) (v : ArbGroup) : (s.setAgrp n v).arb.hintThr = s.arb.hintThr := rfl
@[simp] theorem State.setAgrp_arb_cutCnt (s : State) (n : Nat) (v : ArbGroup) : (s.setAgrp n v).arb.cutCnt = s.arb.cutCnt := rfl
@[simp] theorem nPods_setAgrp (s : State) (n : Nat) (v : ArbGroup) : nPods (s.setAgrp n v) = nPods s := rfl
@[simp] theorem nPairs_setAgrp (s : State) (n : Nat) (v : ArbGroup) : nPairs (s.setAgrp n v) = nPairs s := rfl
@[simp] theorem nBanks_setAgrp (s : State) (n : Nat) (v : ArbGroup) : nBanks (s.setAgrp n v) = nBanks s := rfl
@[simp] theorem nPages_setAgrp (s : State) (n : Nat) (v : ArbGroup) : nPages (s.setAgrp n v) = nPages s := rfl
@[simp] theorem nKeepers_setAgrp (s : State) (n : Nat) (v : ArbGroup) : nKeepers (s.setAgrp n v) = nKeepers s := rfl
@[simp] theorem nPorts_setAgrp (s : State) (n : Nat) (v : ArbGroup) : nPorts (s.setAgrp n v) = nPorts s := rfl
@[simp] theorem nVouts_setAgrp (s : State) (n : Nat) (v : ArbGroup) : nVouts (s.setAgrp n v) = nVouts s := rfl
@[simp] theorem nLoops_setAgrp (s : State) (n : Nat) (v : ArbGroup) : nLoops (s.setAgrp n v) = nLoops s := rfl
@[simp] theorem nLines_setAgrp (s : State) (n : Nat) (v : ArbGroup) : nLines (s.setAgrp n v) = nLines s := rfl
@[simp] theorem busRuns_setAgrp (s : State) (n : Nat) (v : ArbGroup) : busRuns (s.setAgrp n v) = busRuns s := rfl

/-! ## `setPod` -/

@[simp] theorem State.pod_setPod_same (s : State) (n : Nat) (v : Pod) : (s.setPod n v).pod n = v := by
  simp [State.pod, State.setPod]
theorem State.pod_setPod_ne (s : State) (v : Pod) {n m : Nat} (h : m ≠ n) : (s.setPod n v).pod m = s.pod m := by
  simp [State.pod, State.setPod, tget_tput_ne _ _ _ h]
@[simp] theorem State.keeper_setPod (s : State) (n : Nat) (v : Pod) (m : Nat) : (s.setPod n v).keeper m = s.keeper m := rfl
@[simp] theorem State.bank_setPod (s : State) (n : Nat) (v : Pod) (m : Nat) : (s.setPod n v).bank m = s.bank m := rfl
@[simp] theorem State.pfe_setPod (s : State) (n : Nat) (v : Pod) (m : Nat) : (s.setPod n v).pfe m = s.pfe m := rfl
@[simp] theorem State.pdc_setPod (s : State) (n : Nat) (v : Pod) (m : Nat) : (s.setPod n v).pdc m = s.pdc m := rfl
@[simp] theorem State.strm_setPod (s : State) (n : Nat) (v : Pod) (m : Nat) : (s.setPod n v).strm m = s.strm m := rfl
@[simp] theorem State.agrp_setPod (s : State) (n : Nat) (v : Pod) (m : Nat) : (s.setPod n v).agrp m = s.agrp m := rfl
@[simp] theorem State.port_setPod (s : State) (n : Nat) (v : Pod) (m : Nat) : (s.setPod n v).port m = s.port m := rfl
@[simp] theorem State.lout_setPod (s : State) (n : Nat) (v : Pod) (m : Nat) : (s.setPod n v).lout m = s.lout m := rfl
@[simp] theorem State.chm_setPod (s : State) (n : Nat) (v : Pod) (m : Nat) : (s.setPod n v).chm m = s.chm m := rfl
@[simp] theorem State.page_setPod (s : State) (n : Nat) (v : Pod) (m : Nat) : (s.setPod n v).page m = s.page m := rfl
@[simp] theorem State.setPod_variant (s : State) (n : Nat) (v : Pod) : (s.setPod n v).variant = s.variant := rfl
@[simp] theorem State.setPod_now (s : State) (n : Nat) (v : Pod) : (s.setPod n v).now = s.now := rfl
@[simp] theorem State.setPod_busM (s : State) (n : Nat) (v : Pod) : (s.setPod n v).busM = s.busM := rfl
@[simp] theorem State.setPod_was (s : State) (n : Nat) (v : Pod) : (s.setPod n v).was = s.was := rfl
@[simp] theorem State.setPod_fw (s : State) (n : Nat) (v : Pod) : (s.setPod n v).fw = s.fw := rfl
@[simp] theorem State.setPod_fwAt (s : State) (n : Nat) (v : Pod) : (s.setPod n v).fwAt = s.fwAt := rfl
@[simp] theorem State.setPod_iram (s : State) (n : Nat) (v : Pod) : (s.setPod n v).iram = s.iram := rfl
@[simp] theorem State.setPod_wram (s : State) (n : Nat) (v : Pod) : (s.setPod n v).wram = s.wram := rfl
@[simp] theorem State.setPod_store (s : State) (n : Nat) (v : Pod) : (s.setPod n v).store = s.store := rfl
@[simp] theorem State.setPod_iramBad (s : State) (n : Nat) (v : Pod) : (s.setPod n v).iramBad = s.iramBad := rfl
@[simp] theorem State.setPod_wramBad (s : State) (n : Nat) (v : Pod) : (s.setPod n v).wramBad = s.wramBad := rfl
@[simp] theorem State.setPod_storeBad (s : State) (n : Nat) (v : Pod) : (s.setPod n v).storeBad = s.storeBad := rfl
@[simp] theorem State.setPod_keepers (s : State) (n : Nat) (v : Pod) : (s.setPod n v).keepers = s.keepers := rfl
@[simp] theorem State.setPod_banks (s : State) (n : Nat) (v : Pod) : (s.setPod n v).banks = s.banks := rfl
@[simp] theorem State.setPod_kic (s : State) (n : Nat) (v : Pod) : (s.setPod n v).kic = s.kic := rfl
@[simp] theorem State.setPod_release (s : State) (n : Nat) (v : Pod) : (s.setPod n v).release = s.release := rfl
@[simp] theorem State.setPod_sems (s : State) (n : Nat) (v : Pod) : (s.setPod n v).sems = s.sems := rfl
@[simp] theorem State.setPod_fe (s : State) (n : Nat) (v : Pod) : (s.setPod n v).fe = s.fe := rfl
@[simp] theorem State.setPod_pairFe (s : State) (n : Nat) (v : Pod) : (s.setPod n v).pairFe = s.pairFe := rfl
@[simp] theorem State.setPod_pairDc (s : State) (n : Nat) (v : Pod) : (s.setPod n v).pairDc = s.pairDc := rfl
@[simp] theorem State.setPod_dc (s : State) (n : Nat) (v : Pod) : (s.setPod n v).dc = s.dc := rfl
@[simp] theorem State.setPod_ss (s : State) (n : Nat) (v : Pod) : (s.setPod n v).ss = s.ss := rfl
@[simp] theorem State.setPod_arb (s : State) (n : Nat) (v : Pod) : (s.setPod n v).arb = s.arb := rfl
@[simp] theorem State.setPod_ce (s : State) (n : Nat) (v : Pod) : (s.setPod n v).ce = s.ce := rfl
@[simp] theorem State.setPod_io (s : State) (n : Nat) (v : Pod) : (s.setPod n v).io = s.io := rfl
@[simp] theorem State.setPod_bc (s : State) (n : Nat) (v : Pod) : (s.setPod n v).bc = s.bc := rfl
@[simp] theorem State.setPod_tw (s : State) (n : Nat) (v : Pod) : (s.setPod n v).tw = s.tw := rfl
@[simp] theorem State.setPod_img (s : State) (n : Nat) (v : Pod) : (s.setPod n v).img = s.img := rfl
@[simp] theorem State.setPod_pwr (s : State) (n : Nat) (v : Pod) : (s.setPod n v).pwr = s.pwr := rfl
@[simp] theorem State.setPod_rst (s : State) (n : Nat) (v : Pod) : (s.setPod n v).rst = s.rst := rfl
@[simp] theorem State.setPod_integ (s : State) (n : Nat) (v : Pod) : (s.setPod n v).integ = s.integ := rfl
@[simp] theorem State.setPod_wideCap (s : State) (n : Nat) (v : Pod) : (s.setPod n v).wideCap = s.wideCap := rfl
@[simp] theorem State.setPod_wideHold (s : State) (n : Nat) (v : Pod) : (s.setPod n v).wideHold = s.wideHold := rfl
@[simp] theorem State.setPod_rdata (s : State) (n : Nat) (v : Pod) : (s.setPod n v).rdata = s.rdata := rfl
@[simp] theorem State.setPod_free (s : State) (n : Nat) (v : Pod) : (s.setPod n v).free = s.free := rfl
@[simp] theorem State.setPod_pending (s : State) (n : Nat) (v : Pod) : (s.setPod n v).pending = s.pending := rfl
@[simp] theorem State.setPod_rc_flt (s : State) (n : Nat) (v : Pod) : (s.setPod n v).rc.flt = s.rc.flt := rfl
@[simp] theorem State.setPod_rc_fltIe (s : State) (n : Nat) (v : Pod) : (s.setPod n v).rc.fltIe = s.rc.fltIe := rfl
@[simp] theorem State.setPod_rc_qovf (s : State) (n : Nat) (v : Pod) : (s.setPod n v).rc.qovf = s.rc.qovf := rfl
@[simp] theorem State.setPod_rc_unclass (s : State) (n : Nat) (v : Pod) : (s.setPod n v).rc.unclass = s.rc.unclass := rfl
@[simp] theorem State.setPod_rc_queue (s : State) (n : Nat) (v : Pod) : (s.setPod n v).rc.queue = s.rc.queue := rfl
@[simp] theorem nPods_setPod (s : State) (n : Nat) (v : Pod) : nPods (s.setPod n v) = nPods s := rfl
@[simp] theorem nPairs_setPod (s : State) (n : Nat) (v : Pod) : nPairs (s.setPod n v) = nPairs s := rfl
@[simp] theorem nBanks_setPod (s : State) (n : Nat) (v : Pod) : nBanks (s.setPod n v) = nBanks s := rfl
@[simp] theorem nPages_setPod (s : State) (n : Nat) (v : Pod) : nPages (s.setPod n v) = nPages s := rfl
@[simp] theorem nKeepers_setPod (s : State) (n : Nat) (v : Pod) : nKeepers (s.setPod n v) = nKeepers s := rfl
@[simp] theorem nPorts_setPod (s : State) (n : Nat) (v : Pod) : nPorts (s.setPod n v) = nPorts s := rfl
@[simp] theorem nVouts_setPod (s : State) (n : Nat) (v : Pod) : nVouts (s.setPod n v) = nVouts s := rfl
@[simp] theorem nLoops_setPod (s : State) (n : Nat) (v : Pod) : nLoops (s.setPod n v) = nLoops s := rfl
@[simp] theorem nLines_setPod (s : State) (n : Nat) (v : Pod) : nLines (s.setPod n v) = nLines s := rfl
@[simp] theorem busRuns_setPod (s : State) (n : Nat) (v : Pod) : busRuns (s.setPod n v) = busRuns s := rfl

/-! ## `setPort` -/

@[simp] theorem State.port_setPort_same (s : State) (n : Nat) (v : Port) : (s.setPort n v).port n = v := by
  simp [State.port, State.setPort]
theorem State.port_setPort_ne (s : State) (v : Port) {n m : Nat} (h : m ≠ n) : (s.setPort n v).port m = s.port m := by
  simp [State.port, State.setPort, tget_tput_ne _ _ _ h]
@[simp] theorem State.keeper_setPort (s : State) (n : Nat) (v : Port) (m : Nat) : (s.setPort n v).keeper m = s.keeper m := rfl
@[simp] theorem State.bank_setPort (s : State) (n : Nat) (v : Port) (m : Nat) : (s.setPort n v).bank m = s.bank m := rfl
@[simp] theorem State.pfe_setPort (s : State) (n : Nat) (v : Port) (m : Nat) : (s.setPort n v).pfe m = s.pfe m := rfl
@[simp] theorem State.pdc_setPort (s : State) (n : Nat) (v : Port) (m : Nat) : (s.setPort n v).pdc m = s.pdc m := rfl
@[simp] theorem State.strm_setPort (s : State) (n : Nat) (v : Port) (m : Nat) : (s.setPort n v).strm m = s.strm m := rfl
@[simp] theorem State.agrp_setPort (s : State) (n : Nat) (v : Port) (m : Nat) : (s.setPort n v).agrp m = s.agrp m := rfl
@[simp] theorem State.pod_setPort (s : State) (n : Nat) (v : Port) (m : Nat) : (s.setPort n v).pod m = s.pod m := rfl
@[simp] theorem State.lout_setPort (s : State) (n : Nat) (v : Port) (m : Nat) : (s.setPort n v).lout m = s.lout m := rfl
@[simp] theorem State.chm_setPort (s : State) (n : Nat) (v : Port) (m : Nat) : (s.setPort n v).chm m = s.chm m := rfl
@[simp] theorem State.page_setPort (s : State) (n : Nat) (v : Port) (m : Nat) : (s.setPort n v).page m = s.page m := rfl
@[simp] theorem State.setPort_variant (s : State) (n : Nat) (v : Port) : (s.setPort n v).variant = s.variant := rfl
@[simp] theorem State.setPort_now (s : State) (n : Nat) (v : Port) : (s.setPort n v).now = s.now := rfl
@[simp] theorem State.setPort_busM (s : State) (n : Nat) (v : Port) : (s.setPort n v).busM = s.busM := rfl
@[simp] theorem State.setPort_was (s : State) (n : Nat) (v : Port) : (s.setPort n v).was = s.was := rfl
@[simp] theorem State.setPort_fw (s : State) (n : Nat) (v : Port) : (s.setPort n v).fw = s.fw := rfl
@[simp] theorem State.setPort_fwAt (s : State) (n : Nat) (v : Port) : (s.setPort n v).fwAt = s.fwAt := rfl
@[simp] theorem State.setPort_iram (s : State) (n : Nat) (v : Port) : (s.setPort n v).iram = s.iram := rfl
@[simp] theorem State.setPort_wram (s : State) (n : Nat) (v : Port) : (s.setPort n v).wram = s.wram := rfl
@[simp] theorem State.setPort_store (s : State) (n : Nat) (v : Port) : (s.setPort n v).store = s.store := rfl
@[simp] theorem State.setPort_iramBad (s : State) (n : Nat) (v : Port) : (s.setPort n v).iramBad = s.iramBad := rfl
@[simp] theorem State.setPort_wramBad (s : State) (n : Nat) (v : Port) : (s.setPort n v).wramBad = s.wramBad := rfl
@[simp] theorem State.setPort_storeBad (s : State) (n : Nat) (v : Port) : (s.setPort n v).storeBad = s.storeBad := rfl
@[simp] theorem State.setPort_keepers (s : State) (n : Nat) (v : Port) : (s.setPort n v).keepers = s.keepers := rfl
@[simp] theorem State.setPort_banks (s : State) (n : Nat) (v : Port) : (s.setPort n v).banks = s.banks := rfl
@[simp] theorem State.setPort_kic (s : State) (n : Nat) (v : Port) : (s.setPort n v).kic = s.kic := rfl
@[simp] theorem State.setPort_release (s : State) (n : Nat) (v : Port) : (s.setPort n v).release = s.release := rfl
@[simp] theorem State.setPort_sems (s : State) (n : Nat) (v : Port) : (s.setPort n v).sems = s.sems := rfl
@[simp] theorem State.setPort_fe (s : State) (n : Nat) (v : Port) : (s.setPort n v).fe = s.fe := rfl
@[simp] theorem State.setPort_pairFe (s : State) (n : Nat) (v : Port) : (s.setPort n v).pairFe = s.pairFe := rfl
@[simp] theorem State.setPort_pairDc (s : State) (n : Nat) (v : Port) : (s.setPort n v).pairDc = s.pairDc := rfl
@[simp] theorem State.setPort_dc (s : State) (n : Nat) (v : Port) : (s.setPort n v).dc = s.dc := rfl
@[simp] theorem State.setPort_ss (s : State) (n : Nat) (v : Port) : (s.setPort n v).ss = s.ss := rfl
@[simp] theorem State.setPort_arb (s : State) (n : Nat) (v : Port) : (s.setPort n v).arb = s.arb := rfl
@[simp] theorem State.setPort_rc (s : State) (n : Nat) (v : Port) : (s.setPort n v).rc = s.rc := rfl
@[simp] theorem State.setPort_ce (s : State) (n : Nat) (v : Port) : (s.setPort n v).ce = s.ce := rfl
@[simp] theorem State.setPort_bc (s : State) (n : Nat) (v : Port) : (s.setPort n v).bc = s.bc := rfl
@[simp] theorem State.setPort_tw (s : State) (n : Nat) (v : Port) : (s.setPort n v).tw = s.tw := rfl
@[simp] theorem State.setPort_img (s : State) (n : Nat) (v : Port) : (s.setPort n v).img = s.img := rfl
@[simp] theorem State.setPort_pwr (s : State) (n : Nat) (v : Port) : (s.setPort n v).pwr = s.pwr := rfl
@[simp] theorem State.setPort_rst (s : State) (n : Nat) (v : Port) : (s.setPort n v).rst = s.rst := rfl
@[simp] theorem State.setPort_integ (s : State) (n : Nat) (v : Port) : (s.setPort n v).integ = s.integ := rfl
@[simp] theorem State.setPort_wideCap (s : State) (n : Nat) (v : Port) : (s.setPort n v).wideCap = s.wideCap := rfl
@[simp] theorem State.setPort_wideHold (s : State) (n : Nat) (v : Port) : (s.setPort n v).wideHold = s.wideHold := rfl
@[simp] theorem State.setPort_rdata (s : State) (n : Nat) (v : Port) : (s.setPort n v).rdata = s.rdata := rfl
@[simp] theorem State.setPort_free (s : State) (n : Nat) (v : Port) : (s.setPort n v).free = s.free := rfl
@[simp] theorem State.setPort_pending (s : State) (n : Nat) (v : Port) : (s.setPort n v).pending = s.pending := rfl
@[simp] theorem State.setPort_io_ilCmd (s : State) (n : Nat) (v : Port) : (s.setPort n v).io.ilCmd = s.io.ilCmd := rfl
@[simp] theorem State.setPort_io_ilIn (s : State) (n : Nat) (v : Port) : (s.setPort n v).io.ilIn = s.io.ilIn := rfl
@[simp] theorem State.setPort_io_ilSafe (s : State) (n : Nat) (v : Port) : (s.setPort n v).io.ilSafe = s.io.ilSafe := rfl
@[simp] theorem State.setPort_io_ilMis (s : State) (n : Nat) (v : Port) : (s.setPort n v).io.ilMis = s.io.ilMis := rfl
@[simp] theorem State.setPort_io_ilPois (s : State) (n : Nat) (v : Port) : (s.setPort n v).io.ilPois = s.io.ilPois := rfl
@[simp] theorem State.setPort_io_ilIe (s : State) (n : Nat) (v : Port) : (s.setPort n v).io.ilIe = s.io.ilIe := rfl
@[simp] theorem State.setPort_io_ilRun (s : State) (n : Nat) (v : Port) : (s.setPort n v).io.ilRun = s.io.ilRun := rfl
@[simp] theorem State.setPort_io_voRef (s : State) (n : Nat) (v : Port) : (s.setPort n v).io.voRef = s.io.voRef := rfl
@[simp] theorem State.setPort_io_voRefLow (s : State) (n : Nat) (v : Port) : (s.setPort n v).io.voRefLow = s.io.voRefLow := rfl
@[simp] theorem State.setPort_io_voRefIe (s : State) (n : Nat) (v : Port) : (s.setPort n v).io.voRefIe = s.io.voRefIe := rfl
@[simp] theorem State.setPort_io_voPois (s : State) (n : Nat) (v : Port) : (s.setPort n v).io.voPois = s.io.voPois := rfl
@[simp] theorem State.setPort_io_voPoisIe (s : State) (n : Nat) (v : Port) : (s.setPort n v).io.voPoisIe = s.io.voPoisIe := rfl
@[simp] theorem State.setPort_io_voCode (s : State) (n : Nat) (v : Port) : (s.setPort n v).io.voCode = s.io.voCode := rfl
@[simp] theorem State.setPort_io_voSafe (s : State) (n : Nat) (v : Port) : (s.setPort n v).io.voSafe = s.io.voSafe := rfl
@[simp] theorem State.setPort_io_voOut (s : State) (n : Nat) (v : Port) : (s.setPort n v).io.voOut = s.io.voOut := rfl
@[simp] theorem State.setPort_io_nextVo (s : State) (n : Nat) (v : Port) : (s.setPort n v).io.nextVo = s.io.nextVo := rfl
@[simp] theorem State.setPort_io_loops (s : State) (n : Nat) (v : Port) : (s.setPort n v).io.loops = s.io.loops := rfl
@[simp] theorem State.setPort_io_frameAt (s : State) (n : Nat) (v : Port) : (s.setPort n v).io.frameAt = s.io.frameAt := rfl
@[simp] theorem State.setPort_io_frameOrd (s : State) (n : Nat) (v : Port) : (s.setPort n v).io.frameOrd = s.io.frameOrd := rfl
@[simp] theorem nPods_setPort (s : State) (n : Nat) (v : Port) : nPods (s.setPort n v) = nPods s := rfl
@[simp] theorem nPairs_setPort (s : State) (n : Nat) (v : Port) : nPairs (s.setPort n v) = nPairs s := rfl
@[simp] theorem nBanks_setPort (s : State) (n : Nat) (v : Port) : nBanks (s.setPort n v) = nBanks s := rfl
@[simp] theorem nPages_setPort (s : State) (n : Nat) (v : Port) : nPages (s.setPort n v) = nPages s := rfl
@[simp] theorem nKeepers_setPort (s : State) (n : Nat) (v : Port) : nKeepers (s.setPort n v) = nKeepers s := rfl
@[simp] theorem nPorts_setPort (s : State) (n : Nat) (v : Port) : nPorts (s.setPort n v) = nPorts s := rfl
@[simp] theorem nVouts_setPort (s : State) (n : Nat) (v : Port) : nVouts (s.setPort n v) = nVouts s := rfl
@[simp] theorem nLoops_setPort (s : State) (n : Nat) (v : Port) : nLoops (s.setPort n v) = nLoops s := rfl
@[simp] theorem nLines_setPort (s : State) (n : Nat) (v : Port) : nLines (s.setPort n v) = nLines s := rfl
@[simp] theorem busRuns_setPort (s : State) (n : Nat) (v : Port) : busRuns (s.setPort n v) = busRuns s := rfl

/-! ## `setLout` -/

@[simp] theorem State.lout_setLout_same (s : State) (n : Nat) (v : LoopOut) : (s.setLout n v).lout n = v := by
  simp [State.lout, State.setLout]
theorem State.lout_setLout_ne (s : State) (v : LoopOut) {n m : Nat} (h : m ≠ n) : (s.setLout n v).lout m = s.lout m := by
  simp [State.lout, State.setLout, tget_tput_ne _ _ _ h]
@[simp] theorem State.keeper_setLout (s : State) (n : Nat) (v : LoopOut) (m : Nat) : (s.setLout n v).keeper m = s.keeper m := rfl
@[simp] theorem State.bank_setLout (s : State) (n : Nat) (v : LoopOut) (m : Nat) : (s.setLout n v).bank m = s.bank m := rfl
@[simp] theorem State.pfe_setLout (s : State) (n : Nat) (v : LoopOut) (m : Nat) : (s.setLout n v).pfe m = s.pfe m := rfl
@[simp] theorem State.pdc_setLout (s : State) (n : Nat) (v : LoopOut) (m : Nat) : (s.setLout n v).pdc m = s.pdc m := rfl
@[simp] theorem State.strm_setLout (s : State) (n : Nat) (v : LoopOut) (m : Nat) : (s.setLout n v).strm m = s.strm m := rfl
@[simp] theorem State.agrp_setLout (s : State) (n : Nat) (v : LoopOut) (m : Nat) : (s.setLout n v).agrp m = s.agrp m := rfl
@[simp] theorem State.pod_setLout (s : State) (n : Nat) (v : LoopOut) (m : Nat) : (s.setLout n v).pod m = s.pod m := rfl
@[simp] theorem State.port_setLout (s : State) (n : Nat) (v : LoopOut) (m : Nat) : (s.setLout n v).port m = s.port m := rfl
@[simp] theorem State.chm_setLout (s : State) (n : Nat) (v : LoopOut) (m : Nat) : (s.setLout n v).chm m = s.chm m := rfl
@[simp] theorem State.page_setLout (s : State) (n : Nat) (v : LoopOut) (m : Nat) : (s.setLout n v).page m = s.page m := rfl
@[simp] theorem State.setLout_variant (s : State) (n : Nat) (v : LoopOut) : (s.setLout n v).variant = s.variant := rfl
@[simp] theorem State.setLout_now (s : State) (n : Nat) (v : LoopOut) : (s.setLout n v).now = s.now := rfl
@[simp] theorem State.setLout_busM (s : State) (n : Nat) (v : LoopOut) : (s.setLout n v).busM = s.busM := rfl
@[simp] theorem State.setLout_was (s : State) (n : Nat) (v : LoopOut) : (s.setLout n v).was = s.was := rfl
@[simp] theorem State.setLout_fw (s : State) (n : Nat) (v : LoopOut) : (s.setLout n v).fw = s.fw := rfl
@[simp] theorem State.setLout_fwAt (s : State) (n : Nat) (v : LoopOut) : (s.setLout n v).fwAt = s.fwAt := rfl
@[simp] theorem State.setLout_iram (s : State) (n : Nat) (v : LoopOut) : (s.setLout n v).iram = s.iram := rfl
@[simp] theorem State.setLout_wram (s : State) (n : Nat) (v : LoopOut) : (s.setLout n v).wram = s.wram := rfl
@[simp] theorem State.setLout_store (s : State) (n : Nat) (v : LoopOut) : (s.setLout n v).store = s.store := rfl
@[simp] theorem State.setLout_iramBad (s : State) (n : Nat) (v : LoopOut) : (s.setLout n v).iramBad = s.iramBad := rfl
@[simp] theorem State.setLout_wramBad (s : State) (n : Nat) (v : LoopOut) : (s.setLout n v).wramBad = s.wramBad := rfl
@[simp] theorem State.setLout_storeBad (s : State) (n : Nat) (v : LoopOut) : (s.setLout n v).storeBad = s.storeBad := rfl
@[simp] theorem State.setLout_keepers (s : State) (n : Nat) (v : LoopOut) : (s.setLout n v).keepers = s.keepers := rfl
@[simp] theorem State.setLout_banks (s : State) (n : Nat) (v : LoopOut) : (s.setLout n v).banks = s.banks := rfl
@[simp] theorem State.setLout_kic (s : State) (n : Nat) (v : LoopOut) : (s.setLout n v).kic = s.kic := rfl
@[simp] theorem State.setLout_release (s : State) (n : Nat) (v : LoopOut) : (s.setLout n v).release = s.release := rfl
@[simp] theorem State.setLout_sems (s : State) (n : Nat) (v : LoopOut) : (s.setLout n v).sems = s.sems := rfl
@[simp] theorem State.setLout_fe (s : State) (n : Nat) (v : LoopOut) : (s.setLout n v).fe = s.fe := rfl
@[simp] theorem State.setLout_pairFe (s : State) (n : Nat) (v : LoopOut) : (s.setLout n v).pairFe = s.pairFe := rfl
@[simp] theorem State.setLout_pairDc (s : State) (n : Nat) (v : LoopOut) : (s.setLout n v).pairDc = s.pairDc := rfl
@[simp] theorem State.setLout_dc (s : State) (n : Nat) (v : LoopOut) : (s.setLout n v).dc = s.dc := rfl
@[simp] theorem State.setLout_ss (s : State) (n : Nat) (v : LoopOut) : (s.setLout n v).ss = s.ss := rfl
@[simp] theorem State.setLout_arb (s : State) (n : Nat) (v : LoopOut) : (s.setLout n v).arb = s.arb := rfl
@[simp] theorem State.setLout_rc (s : State) (n : Nat) (v : LoopOut) : (s.setLout n v).rc = s.rc := rfl
@[simp] theorem State.setLout_ce (s : State) (n : Nat) (v : LoopOut) : (s.setLout n v).ce = s.ce := rfl
@[simp] theorem State.setLout_bc (s : State) (n : Nat) (v : LoopOut) : (s.setLout n v).bc = s.bc := rfl
@[simp] theorem State.setLout_tw (s : State) (n : Nat) (v : LoopOut) : (s.setLout n v).tw = s.tw := rfl
@[simp] theorem State.setLout_img (s : State) (n : Nat) (v : LoopOut) : (s.setLout n v).img = s.img := rfl
@[simp] theorem State.setLout_pwr (s : State) (n : Nat) (v : LoopOut) : (s.setLout n v).pwr = s.pwr := rfl
@[simp] theorem State.setLout_rst (s : State) (n : Nat) (v : LoopOut) : (s.setLout n v).rst = s.rst := rfl
@[simp] theorem State.setLout_integ (s : State) (n : Nat) (v : LoopOut) : (s.setLout n v).integ = s.integ := rfl
@[simp] theorem State.setLout_wideCap (s : State) (n : Nat) (v : LoopOut) : (s.setLout n v).wideCap = s.wideCap := rfl
@[simp] theorem State.setLout_wideHold (s : State) (n : Nat) (v : LoopOut) : (s.setLout n v).wideHold = s.wideHold := rfl
@[simp] theorem State.setLout_rdata (s : State) (n : Nat) (v : LoopOut) : (s.setLout n v).rdata = s.rdata := rfl
@[simp] theorem State.setLout_free (s : State) (n : Nat) (v : LoopOut) : (s.setLout n v).free = s.free := rfl
@[simp] theorem State.setLout_pending (s : State) (n : Nat) (v : LoopOut) : (s.setLout n v).pending = s.pending := rfl
@[simp] theorem State.setLout_io_ports (s : State) (n : Nat) (v : LoopOut) : (s.setLout n v).io.ports = s.io.ports := rfl
@[simp] theorem State.setLout_io_ilCmd (s : State) (n : Nat) (v : LoopOut) : (s.setLout n v).io.ilCmd = s.io.ilCmd := rfl
@[simp] theorem State.setLout_io_ilIn (s : State) (n : Nat) (v : LoopOut) : (s.setLout n v).io.ilIn = s.io.ilIn := rfl
@[simp] theorem State.setLout_io_ilSafe (s : State) (n : Nat) (v : LoopOut) : (s.setLout n v).io.ilSafe = s.io.ilSafe := rfl
@[simp] theorem State.setLout_io_ilMis (s : State) (n : Nat) (v : LoopOut) : (s.setLout n v).io.ilMis = s.io.ilMis := rfl
@[simp] theorem State.setLout_io_ilPois (s : State) (n : Nat) (v : LoopOut) : (s.setLout n v).io.ilPois = s.io.ilPois := rfl
@[simp] theorem State.setLout_io_ilIe (s : State) (n : Nat) (v : LoopOut) : (s.setLout n v).io.ilIe = s.io.ilIe := rfl
@[simp] theorem State.setLout_io_ilRun (s : State) (n : Nat) (v : LoopOut) : (s.setLout n v).io.ilRun = s.io.ilRun := rfl
@[simp] theorem State.setLout_io_voRef (s : State) (n : Nat) (v : LoopOut) : (s.setLout n v).io.voRef = s.io.voRef := rfl
@[simp] theorem State.setLout_io_voRefLow (s : State) (n : Nat) (v : LoopOut) : (s.setLout n v).io.voRefLow = s.io.voRefLow := rfl
@[simp] theorem State.setLout_io_voRefIe (s : State) (n : Nat) (v : LoopOut) : (s.setLout n v).io.voRefIe = s.io.voRefIe := rfl
@[simp] theorem State.setLout_io_voPois (s : State) (n : Nat) (v : LoopOut) : (s.setLout n v).io.voPois = s.io.voPois := rfl
@[simp] theorem State.setLout_io_voPoisIe (s : State) (n : Nat) (v : LoopOut) : (s.setLout n v).io.voPoisIe = s.io.voPoisIe := rfl
@[simp] theorem State.setLout_io_voCode (s : State) (n : Nat) (v : LoopOut) : (s.setLout n v).io.voCode = s.io.voCode := rfl
@[simp] theorem State.setLout_io_voSafe (s : State) (n : Nat) (v : LoopOut) : (s.setLout n v).io.voSafe = s.io.voSafe := rfl
@[simp] theorem State.setLout_io_voOut (s : State) (n : Nat) (v : LoopOut) : (s.setLout n v).io.voOut = s.io.voOut := rfl
@[simp] theorem State.setLout_io_nextVo (s : State) (n : Nat) (v : LoopOut) : (s.setLout n v).io.nextVo = s.io.nextVo := rfl
@[simp] theorem State.setLout_io_frameAt (s : State) (n : Nat) (v : LoopOut) : (s.setLout n v).io.frameAt = s.io.frameAt := rfl
@[simp] theorem State.setLout_io_frameOrd (s : State) (n : Nat) (v : LoopOut) : (s.setLout n v).io.frameOrd = s.io.frameOrd := rfl
@[simp] theorem nPods_setLout (s : State) (n : Nat) (v : LoopOut) : nPods (s.setLout n v) = nPods s := rfl
@[simp] theorem nPairs_setLout (s : State) (n : Nat) (v : LoopOut) : nPairs (s.setLout n v) = nPairs s := rfl
@[simp] theorem nBanks_setLout (s : State) (n : Nat) (v : LoopOut) : nBanks (s.setLout n v) = nBanks s := rfl
@[simp] theorem nPages_setLout (s : State) (n : Nat) (v : LoopOut) : nPages (s.setLout n v) = nPages s := rfl
@[simp] theorem nKeepers_setLout (s : State) (n : Nat) (v : LoopOut) : nKeepers (s.setLout n v) = nKeepers s := rfl
@[simp] theorem nPorts_setLout (s : State) (n : Nat) (v : LoopOut) : nPorts (s.setLout n v) = nPorts s := rfl
@[simp] theorem nVouts_setLout (s : State) (n : Nat) (v : LoopOut) : nVouts (s.setLout n v) = nVouts s := rfl
@[simp] theorem nLoops_setLout (s : State) (n : Nat) (v : LoopOut) : nLoops (s.setLout n v) = nLoops s := rfl
@[simp] theorem nLines_setLout (s : State) (n : Nat) (v : LoopOut) : nLines (s.setLout n v) = nLines s := rfl
@[simp] theorem busRuns_setLout (s : State) (n : Nat) (v : LoopOut) : busRuns (s.setLout n v) = busRuns s := rfl

/-! ## `setChm` -/

@[simp] theorem State.chm_setChm_same (s : State) (n : Nat) (v : Inst) : (s.setChm n v).chm n = v := by
  simp [State.chm, State.setChm]
theorem State.chm_setChm_ne (s : State) (v : Inst) {n m : Nat} (h : m ≠ n) : (s.setChm n v).chm m = s.chm m := by
  simp [State.chm, State.setChm, tget_tput_ne _ _ _ h]
@[simp] theorem State.keeper_setChm (s : State) (n : Nat) (v : Inst) (m : Nat) : (s.setChm n v).keeper m = s.keeper m := rfl
@[simp] theorem State.bank_setChm (s : State) (n : Nat) (v : Inst) (m : Nat) : (s.setChm n v).bank m = s.bank m := rfl
@[simp] theorem State.pfe_setChm (s : State) (n : Nat) (v : Inst) (m : Nat) : (s.setChm n v).pfe m = s.pfe m := rfl
@[simp] theorem State.pdc_setChm (s : State) (n : Nat) (v : Inst) (m : Nat) : (s.setChm n v).pdc m = s.pdc m := rfl
@[simp] theorem State.strm_setChm (s : State) (n : Nat) (v : Inst) (m : Nat) : (s.setChm n v).strm m = s.strm m := rfl
@[simp] theorem State.agrp_setChm (s : State) (n : Nat) (v : Inst) (m : Nat) : (s.setChm n v).agrp m = s.agrp m := rfl
@[simp] theorem State.pod_setChm (s : State) (n : Nat) (v : Inst) (m : Nat) : (s.setChm n v).pod m = s.pod m := rfl
@[simp] theorem State.port_setChm (s : State) (n : Nat) (v : Inst) (m : Nat) : (s.setChm n v).port m = s.port m := rfl
@[simp] theorem State.lout_setChm (s : State) (n : Nat) (v : Inst) (m : Nat) : (s.setChm n v).lout m = s.lout m := rfl
@[simp] theorem State.page_setChm (s : State) (n : Nat) (v : Inst) (m : Nat) : (s.setChm n v).page m = s.page m := rfl
@[simp] theorem State.setChm_variant (s : State) (n : Nat) (v : Inst) : (s.setChm n v).variant = s.variant := rfl
@[simp] theorem State.setChm_now (s : State) (n : Nat) (v : Inst) : (s.setChm n v).now = s.now := rfl
@[simp] theorem State.setChm_busM (s : State) (n : Nat) (v : Inst) : (s.setChm n v).busM = s.busM := rfl
@[simp] theorem State.setChm_was (s : State) (n : Nat) (v : Inst) : (s.setChm n v).was = s.was := rfl
@[simp] theorem State.setChm_fw (s : State) (n : Nat) (v : Inst) : (s.setChm n v).fw = s.fw := rfl
@[simp] theorem State.setChm_fwAt (s : State) (n : Nat) (v : Inst) : (s.setChm n v).fwAt = s.fwAt := rfl
@[simp] theorem State.setChm_iram (s : State) (n : Nat) (v : Inst) : (s.setChm n v).iram = s.iram := rfl
@[simp] theorem State.setChm_wram (s : State) (n : Nat) (v : Inst) : (s.setChm n v).wram = s.wram := rfl
@[simp] theorem State.setChm_store (s : State) (n : Nat) (v : Inst) : (s.setChm n v).store = s.store := rfl
@[simp] theorem State.setChm_iramBad (s : State) (n : Nat) (v : Inst) : (s.setChm n v).iramBad = s.iramBad := rfl
@[simp] theorem State.setChm_wramBad (s : State) (n : Nat) (v : Inst) : (s.setChm n v).wramBad = s.wramBad := rfl
@[simp] theorem State.setChm_storeBad (s : State) (n : Nat) (v : Inst) : (s.setChm n v).storeBad = s.storeBad := rfl
@[simp] theorem State.setChm_keepers (s : State) (n : Nat) (v : Inst) : (s.setChm n v).keepers = s.keepers := rfl
@[simp] theorem State.setChm_banks (s : State) (n : Nat) (v : Inst) : (s.setChm n v).banks = s.banks := rfl
@[simp] theorem State.setChm_kic (s : State) (n : Nat) (v : Inst) : (s.setChm n v).kic = s.kic := rfl
@[simp] theorem State.setChm_release (s : State) (n : Nat) (v : Inst) : (s.setChm n v).release = s.release := rfl
@[simp] theorem State.setChm_sems (s : State) (n : Nat) (v : Inst) : (s.setChm n v).sems = s.sems := rfl
@[simp] theorem State.setChm_fe (s : State) (n : Nat) (v : Inst) : (s.setChm n v).fe = s.fe := rfl
@[simp] theorem State.setChm_pairFe (s : State) (n : Nat) (v : Inst) : (s.setChm n v).pairFe = s.pairFe := rfl
@[simp] theorem State.setChm_pairDc (s : State) (n : Nat) (v : Inst) : (s.setChm n v).pairDc = s.pairDc := rfl
@[simp] theorem State.setChm_dc (s : State) (n : Nat) (v : Inst) : (s.setChm n v).dc = s.dc := rfl
@[simp] theorem State.setChm_ss (s : State) (n : Nat) (v : Inst) : (s.setChm n v).ss = s.ss := rfl
@[simp] theorem State.setChm_arb (s : State) (n : Nat) (v : Inst) : (s.setChm n v).arb = s.arb := rfl
@[simp] theorem State.setChm_rc (s : State) (n : Nat) (v : Inst) : (s.setChm n v).rc = s.rc := rfl
@[simp] theorem State.setChm_io (s : State) (n : Nat) (v : Inst) : (s.setChm n v).io = s.io := rfl
@[simp] theorem State.setChm_bc (s : State) (n : Nat) (v : Inst) : (s.setChm n v).bc = s.bc := rfl
@[simp] theorem State.setChm_tw (s : State) (n : Nat) (v : Inst) : (s.setChm n v).tw = s.tw := rfl
@[simp] theorem State.setChm_img (s : State) (n : Nat) (v : Inst) : (s.setChm n v).img = s.img := rfl
@[simp] theorem State.setChm_pwr (s : State) (n : Nat) (v : Inst) : (s.setChm n v).pwr = s.pwr := rfl
@[simp] theorem State.setChm_rst (s : State) (n : Nat) (v : Inst) : (s.setChm n v).rst = s.rst := rfl
@[simp] theorem State.setChm_integ (s : State) (n : Nat) (v : Inst) : (s.setChm n v).integ = s.integ := rfl
@[simp] theorem State.setChm_wideCap (s : State) (n : Nat) (v : Inst) : (s.setChm n v).wideCap = s.wideCap := rfl
@[simp] theorem State.setChm_wideHold (s : State) (n : Nat) (v : Inst) : (s.setChm n v).wideHold = s.wideHold := rfl
@[simp] theorem State.setChm_rdata (s : State) (n : Nat) (v : Inst) : (s.setChm n v).rdata = s.rdata := rfl
@[simp] theorem State.setChm_free (s : State) (n : Nat) (v : Inst) : (s.setChm n v).free = s.free := rfl
@[simp] theorem State.setChm_pending (s : State) (n : Nat) (v : Inst) : (s.setChm n v).pending = s.pending := rfl
@[simp] theorem State.setChm_ce_run (s : State) (n : Nat) (v : Inst) : (s.setChm n v).ce.run = s.ce.run := rfl
@[simp] theorem State.setChm_ce_flt (s : State) (n : Nat) (v : Inst) : (s.setChm n v).ce.flt = s.ce.flt := rfl
@[simp] theorem State.setChm_ce_lastOwner (s : State) (n : Nat) (v : Inst) : (s.setChm n v).ce.lastOwner = s.ce.lastOwner := rfl
@[simp] theorem State.setChm_ce_fltIe (s : State) (n : Nat) (v : Inst) : (s.setChm n v).ce.fltIe = s.ce.fltIe := rfl
@[simp] theorem State.setChm_ce_lateCnt (s : State) (n : Nat) (v : Inst) : (s.setChm n v).ce.lateCnt = s.ce.lateCnt := rfl
@[simp] theorem State.setChm_ce_poisonCnt (s : State) (n : Nat) (v : Inst) : (s.setChm n v).ce.poisonCnt = s.ce.poisonCnt := rfl
@[simp] theorem State.setChm_ce_overrunCnt (s : State) (n : Nat) (v : Inst) : (s.setChm n v).ce.overrunCnt = s.ce.overrunCnt := rfl
@[simp] theorem State.setChm_ce_bgqOvf (s : State) (n : Nat) (v : Inst) : (s.setChm n v).ce.bgqOvf = s.ce.bgqOvf := rfl
@[simp] theorem State.setChm_ce_wqDrop (s : State) (n : Nat) (v : Inst) : (s.setChm n v).ce.wqDrop = s.ce.wqDrop := rfl
@[simp] theorem State.setChm_ce_lease (s : State) (n : Nat) (v : Inst) : (s.setChm n v).ce.lease = s.ce.lease := rfl
@[simp] theorem State.setChm_ce_evStream (s : State) (n : Nat) (v : Inst) : (s.setChm n v).ce.evStream = s.ce.evStream := rfl
@[simp] theorem State.setChm_ce_slack0 (s : State) (n : Nat) (v : Inst) : (s.setChm n v).ce.slack0 = s.ce.slack0 := rfl
@[simp] theorem State.setChm_ce_slack1 (s : State) (n : Nat) (v : Inst) : (s.setChm n v).ce.slack1 = s.ce.slack1 := rfl
@[simp] theorem State.setChm_ce_classes (s : State) (n : Nat) (v : Inst) : (s.setChm n v).ce.classes = s.ce.classes := rfl
@[simp] theorem State.setChm_ce_sigStk (s : State) (n : Nat) (v : Inst) : (s.setChm n v).ce.sigStk = s.ce.sigStk := rfl
@[simp] theorem State.setChm_ce_sigIe (s : State) (n : Nat) (v : Inst) : (s.setChm n v).ce.sigIe = s.ce.sigIe := rfl
@[simp] theorem State.setChm_ce_sigInst (s : State) (n : Nat) (v : Inst) : (s.setChm n v).ce.sigInst = s.ce.sigInst := rfl
@[simp] theorem State.setChm_ce_srcs (s : State) (n : Nat) (v : Inst) : (s.setChm n v).ce.srcs = s.ce.srcs := rfl
@[simp] theorem State.setChm_ce_periodic (s : State) (n : Nat) (v : Inst) : (s.setChm n v).ce.periodic = s.ce.periodic := rfl
@[simp] theorem State.setChm_ce_bg0 (s : State) (n : Nat) (v : Inst) : (s.setChm n v).ce.bg0 = s.ce.bg0 := rfl
@[simp] theorem State.setChm_ce_bg1 (s : State) (n : Nat) (v : Inst) : (s.setChm n v).ce.bg1 = s.ce.bg1 := rfl
@[simp] theorem State.setChm_ce_run0 (s : State) (n : Nat) (v : Inst) : (s.setChm n v).ce.run0 = s.ce.run0 := rfl
@[simp] theorem State.setChm_ce_run1 (s : State) (n : Nat) (v : Inst) : (s.setChm n v).ce.run1 = s.ce.run1 := rfl
@[simp] theorem State.setChm_ce_bufs (s : State) (n : Nat) (v : Inst) : (s.setChm n v).ce.bufs = s.ce.bufs := rfl
@[simp] theorem State.setChm_ce_wq (s : State) (n : Nat) (v : Inst) : (s.setChm n v).ce.wq = s.ce.wq := rfl
@[simp] theorem State.setChm_ce_expired (s : State) (n : Nat) (v : Inst) : (s.setChm n v).ce.expired = s.ce.expired := rfl
@[simp] theorem nPods_setChm (s : State) (n : Nat) (v : Inst) : nPods (s.setChm n v) = nPods s := rfl
@[simp] theorem nPairs_setChm (s : State) (n : Nat) (v : Inst) : nPairs (s.setChm n v) = nPairs s := rfl
@[simp] theorem nBanks_setChm (s : State) (n : Nat) (v : Inst) : nBanks (s.setChm n v) = nBanks s := rfl
@[simp] theorem nPages_setChm (s : State) (n : Nat) (v : Inst) : nPages (s.setChm n v) = nPages s := rfl
@[simp] theorem nKeepers_setChm (s : State) (n : Nat) (v : Inst) : nKeepers (s.setChm n v) = nKeepers s := rfl
@[simp] theorem nPorts_setChm (s : State) (n : Nat) (v : Inst) : nPorts (s.setChm n v) = nPorts s := rfl
@[simp] theorem nVouts_setChm (s : State) (n : Nat) (v : Inst) : nVouts (s.setChm n v) = nVouts s := rfl
@[simp] theorem nLoops_setChm (s : State) (n : Nat) (v : Inst) : nLoops (s.setChm n v) = nLoops s := rfl
@[simp] theorem nLines_setChm (s : State) (n : Nat) (v : Inst) : nLines (s.setChm n v) = nLines s := rfl
@[simp] theorem busRuns_setChm (s : State) (n : Nat) (v : Inst) : busRuns (s.setChm n v) = busRuns s := rfl

/-! ## `setPage` -/

@[simp] theorem State.page_setPage_same (s : State) (n : Nat) (v : Page) : (s.setPage n v).page n = v := by
  show tget (pageDefault s n) (tput (pageDefault s n) s.ss.pages n v) n = v
  exact tget_tput_same _ _ _ _
theorem State.page_setPage_ne (s : State) (v : Page) {n m : Nat} (h : m ≠ n) : (s.setPage n v).page m = s.page m := by
  show tget (pageDefault s m) (tput (pageDefault s n) s.ss.pages n v) m = tget (pageDefault s m) s.ss.pages m
  exact tget_tput_other _ _ _ _ h
@[simp] theorem State.keeper_setPage (s : State) (n : Nat) (v : Page) (m : Nat) : (s.setPage n v).keeper m = s.keeper m := rfl
@[simp] theorem State.bank_setPage (s : State) (n : Nat) (v : Page) (m : Nat) : (s.setPage n v).bank m = s.bank m := rfl
@[simp] theorem State.pfe_setPage (s : State) (n : Nat) (v : Page) (m : Nat) : (s.setPage n v).pfe m = s.pfe m := rfl
@[simp] theorem State.pdc_setPage (s : State) (n : Nat) (v : Page) (m : Nat) : (s.setPage n v).pdc m = s.pdc m := rfl
@[simp] theorem State.strm_setPage (s : State) (n : Nat) (v : Page) (m : Nat) : (s.setPage n v).strm m = s.strm m := rfl
@[simp] theorem State.agrp_setPage (s : State) (n : Nat) (v : Page) (m : Nat) : (s.setPage n v).agrp m = s.agrp m := rfl
@[simp] theorem State.pod_setPage (s : State) (n : Nat) (v : Page) (m : Nat) : (s.setPage n v).pod m = s.pod m := rfl
@[simp] theorem State.port_setPage (s : State) (n : Nat) (v : Page) (m : Nat) : (s.setPage n v).port m = s.port m := rfl
@[simp] theorem State.lout_setPage (s : State) (n : Nat) (v : Page) (m : Nat) : (s.setPage n v).lout m = s.lout m := rfl
@[simp] theorem State.chm_setPage (s : State) (n : Nat) (v : Page) (m : Nat) : (s.setPage n v).chm m = s.chm m := rfl
@[simp] theorem State.setPage_variant (s : State) (n : Nat) (v : Page) : (s.setPage n v).variant = s.variant := rfl
@[simp] theorem State.setPage_now (s : State) (n : Nat) (v : Page) : (s.setPage n v).now = s.now := rfl
@[simp] theorem State.setPage_busM (s : State) (n : Nat) (v : Page) : (s.setPage n v).busM = s.busM := rfl
@[simp] theorem State.setPage_was (s : State) (n : Nat) (v : Page) : (s.setPage n v).was = s.was := rfl
@[simp] theorem State.setPage_fw (s : State) (n : Nat) (v : Page) : (s.setPage n v).fw = s.fw := rfl
@[simp] theorem State.setPage_fwAt (s : State) (n : Nat) (v : Page) : (s.setPage n v).fwAt = s.fwAt := rfl
@[simp] theorem State.setPage_iram (s : State) (n : Nat) (v : Page) : (s.setPage n v).iram = s.iram := rfl
@[simp] theorem State.setPage_wram (s : State) (n : Nat) (v : Page) : (s.setPage n v).wram = s.wram := rfl
@[simp] theorem State.setPage_store (s : State) (n : Nat) (v : Page) : (s.setPage n v).store = s.store := rfl
@[simp] theorem State.setPage_iramBad (s : State) (n : Nat) (v : Page) : (s.setPage n v).iramBad = s.iramBad := rfl
@[simp] theorem State.setPage_wramBad (s : State) (n : Nat) (v : Page) : (s.setPage n v).wramBad = s.wramBad := rfl
@[simp] theorem State.setPage_storeBad (s : State) (n : Nat) (v : Page) : (s.setPage n v).storeBad = s.storeBad := rfl
@[simp] theorem State.setPage_keepers (s : State) (n : Nat) (v : Page) : (s.setPage n v).keepers = s.keepers := rfl
@[simp] theorem State.setPage_banks (s : State) (n : Nat) (v : Page) : (s.setPage n v).banks = s.banks := rfl
@[simp] theorem State.setPage_kic (s : State) (n : Nat) (v : Page) : (s.setPage n v).kic = s.kic := rfl
@[simp] theorem State.setPage_release (s : State) (n : Nat) (v : Page) : (s.setPage n v).release = s.release := rfl
@[simp] theorem State.setPage_sems (s : State) (n : Nat) (v : Page) : (s.setPage n v).sems = s.sems := rfl
@[simp] theorem State.setPage_fe (s : State) (n : Nat) (v : Page) : (s.setPage n v).fe = s.fe := rfl
@[simp] theorem State.setPage_pairFe (s : State) (n : Nat) (v : Page) : (s.setPage n v).pairFe = s.pairFe := rfl
@[simp] theorem State.setPage_pairDc (s : State) (n : Nat) (v : Page) : (s.setPage n v).pairDc = s.pairDc := rfl
@[simp] theorem State.setPage_dc (s : State) (n : Nat) (v : Page) : (s.setPage n v).dc = s.dc := rfl
@[simp] theorem State.setPage_arb (s : State) (n : Nat) (v : Page) : (s.setPage n v).arb = s.arb := rfl
@[simp] theorem State.setPage_rc (s : State) (n : Nat) (v : Page) : (s.setPage n v).rc = s.rc := rfl
@[simp] theorem State.setPage_ce (s : State) (n : Nat) (v : Page) : (s.setPage n v).ce = s.ce := rfl
@[simp] theorem State.setPage_io (s : State) (n : Nat) (v : Page) : (s.setPage n v).io = s.io := rfl
@[simp] theorem State.setPage_bc (s : State) (n : Nat) (v : Page) : (s.setPage n v).bc = s.bc := rfl
@[simp] theorem State.setPage_tw (s : State) (n : Nat) (v : Page) : (s.setPage n v).tw = s.tw := rfl
@[simp] theorem State.setPage_img (s : State) (n : Nat) (v : Page) : (s.setPage n v).img = s.img := rfl
@[simp] theorem State.setPage_pwr (s : State) (n : Nat) (v : Page) : (s.setPage n v).pwr = s.pwr := rfl
@[simp] theorem State.setPage_rst (s : State) (n : Nat) (v : Page) : (s.setPage n v).rst = s.rst := rfl
@[simp] theorem State.setPage_integ (s : State) (n : Nat) (v : Page) : (s.setPage n v).integ = s.integ := rfl
@[simp] theorem State.setPage_wideCap (s : State) (n : Nat) (v : Page) : (s.setPage n v).wideCap = s.wideCap := rfl
@[simp] theorem State.setPage_wideHold (s : State) (n : Nat) (v : Page) : (s.setPage n v).wideHold = s.wideHold := rfl
@[simp] theorem State.setPage_rdata (s : State) (n : Nat) (v : Page) : (s.setPage n v).rdata = s.rdata := rfl
@[simp] theorem State.setPage_free (s : State) (n : Nat) (v : Page) : (s.setPage n v).free = s.free := rfl
@[simp] theorem State.setPage_pending (s : State) (n : Nat) (v : Page) : (s.setPage n v).pending = s.pending := rfl
@[simp] theorem State.setPage_ss_ring (s : State) (n : Nat) (v : Page) : (s.setPage n v).ss.ring = s.ss.ring := rfl
@[simp] theorem State.setPage_ss_streams (s : State) (n : Nat) (v : Page) : (s.setPage n v).ss.streams = s.ss.streams := rfl
@[simp] theorem State.setPage_ss_psample (s : State) (n : Nat) (v : Page) : (s.setPage n v).ss.psample = s.ss.psample := rfl
@[simp] theorem State.setPage_ss_pcoarse (s : State) (n : Nat) (v : Page) : (s.setPage n v).ss.pcoarse = s.ss.pcoarse := rfl
@[simp] theorem State.setPage_ss_lease (s : State) (n : Nat) (v : Page) : (s.setPage n v).ss.lease = s.ss.lease := rfl
@[simp] theorem State.setPage_ss_freePage (s : State) (n : Nat) (v : Page) : (s.setPage n v).ss.freePage = s.ss.freePage := rfl
@[simp] theorem State.setPage_ss_freeReason (s : State) (n : Nat) (v : Page) : (s.setPage n v).ss.freeReason = s.ss.freeReason := rfl
@[simp] theorem State.setPage_ss_freeFpage (s : State) (n : Nat) (v : Page) : (s.setPage n v).ss.freeFpage = s.ss.freeFpage := rfl
@[simp] theorem State.setPage_ss_freeFcnt (s : State) (n : Nat) (v : Page) : (s.setPage n v).ss.freeFcnt = s.ss.freeFcnt := rfl
@[simp] theorem State.setPage_ss_flt (s : State) (n : Nat) (v : Page) : (s.setPage n v).ss.flt = s.ss.flt := rfl
@[simp] theorem State.setPage_ss_lastOwner (s : State) (n : Nat) (v : Page) : (s.setPage n v).ss.lastOwner = s.ss.lastOwner := rfl
@[simp] theorem State.setPage_ss_fltIe (s : State) (n : Nat) (v : Page) : (s.setPage n v).ss.fltIe = s.ss.fltIe := rfl
@[simp] theorem State.setPage_ss_scrubEn (s : State) (n : Nat) (v : Page) : (s.setPage n v).ss.scrubEn = s.ss.scrubEn := rfl
@[simp] theorem State.setPage_ss_scrubLap (s : State) (n : Nat) (v : Page) : (s.setPage n v).ss.scrubLap = s.ss.scrubLap := rfl
@[simp] theorem State.setPage_ss_scrubSkip (s : State) (n : Nat) (v : Page) : (s.setPage n v).ss.scrubSkip = s.ss.scrubSkip := rfl
@[simp] theorem State.setPage_ss_scrubPos (s : State) (n : Nat) (v : Page) : (s.setPage n v).ss.scrubPos = s.ss.scrubPos := rfl
@[simp] theorem State.setPage_ss_scrubStart (s : State) (n : Nat) (v : Page) : (s.setPage n v).ss.scrubStart = s.ss.scrubStart := rfl
@[simp] theorem State.setPage_ss_iscrubEn (s : State) (n : Nat) (v : Page) : (s.setPage n v).ss.iscrubEn = s.ss.iscrubEn := rfl
@[simp] theorem State.setPage_ss_iscrubRate (s : State) (n : Nat) (v : Page) : (s.setPage n v).ss.iscrubRate = s.ss.iscrubRate := rfl
@[simp] theorem State.setPage_ss_iscrubPos (s : State) (n : Nat) (v : Page) : (s.setPage n v).ss.iscrubPos = s.ss.iscrubPos := rfl
@[simp] theorem State.setPage_ss_iscrubAt (s : State) (n : Nat) (v : Page) : (s.setPage n v).ss.iscrubAt = s.ss.iscrubAt := rfl
@[simp] theorem State.setPage_ss_imgAddr (s : State) (n : Nat) (v : Page) : (s.setPage n v).ss.imgAddr = s.ss.imgAddr := rfl
@[simp] theorem State.setPage_ss_imgRep (s : State) (n : Nat) (v : Page) : (s.setPage n v).ss.imgRep = s.ss.imgRep := rfl
@[simp] theorem State.setPage_ss_wramAddr (s : State) (n : Nat) (v : Page) : (s.setPage n v).ss.wramAddr = s.ss.wramAddr := rfl
@[simp] theorem State.setPage_ss_wramCnt (s : State) (n : Nat) (v : Page) : (s.setPage n v).ss.wramCnt = s.ss.wramCnt := rfl
@[simp] theorem State.setPage_ss_elog (s : State) (n : Nat) (v : Page) : (s.setPage n v).ss.elog = s.ss.elog := rfl
@[simp] theorem State.setPage_ss_elogOvf (s : State) (n : Nat) (v : Page) : (s.setPage n v).ss.elogOvf = s.ss.elogOvf := rfl
@[simp] theorem State.setPage_ss_ready (s : State) (n : Nat) (v : Page) : (s.setPage n v).ss.ready = s.ss.ready := rfl
@[simp] theorem State.setPage_ss_fetches (s : State) (n : Nat) (v : Page) : (s.setPage n v).ss.fetches = s.ss.fetches := rfl
@[simp] theorem State.setPage_ss_refetches (s : State) (n : Nat) (v : Page) : (s.setPage n v).ss.refetches = s.ss.refetches := rfl
@[simp] theorem State.setPage_ss_ord (s : State) (n : Nat) (v : Page) : (s.setPage n v).ss.ord = s.ss.ord := rfl
@[simp] theorem nPods_setPage (s : State) (n : Nat) (v : Page) : nPods (s.setPage n v) = nPods s := rfl
@[simp] theorem nPairs_setPage (s : State) (n : Nat) (v : Page) : nPairs (s.setPage n v) = nPairs s := rfl
@[simp] theorem nBanks_setPage (s : State) (n : Nat) (v : Page) : nBanks (s.setPage n v) = nBanks s := rfl
@[simp] theorem nPages_setPage (s : State) (n : Nat) (v : Page) : nPages (s.setPage n v) = nPages s := rfl
@[simp] theorem nKeepers_setPage (s : State) (n : Nat) (v : Page) : nKeepers (s.setPage n v) = nKeepers s := rfl
@[simp] theorem nPorts_setPage (s : State) (n : Nat) (v : Page) : nPorts (s.setPage n v) = nPorts s := rfl
@[simp] theorem nVouts_setPage (s : State) (n : Nat) (v : Page) : nVouts (s.setPage n v) = nVouts s := rfl
@[simp] theorem nLoops_setPage (s : State) (n : Nat) (v : Page) : nLoops (s.setPage n v) = nLoops s := rfl
@[simp] theorem nLines_setPage (s : State) (n : Nat) (v : Page) : nLines (s.setPage n v) = nLines s := rfl
@[simp] theorem busRuns_setPage (s : State) (n : Nat) (v : Page) : busRuns (s.setPage n v) = busRuns s := rfl

/-! ## `nextFree` -/

@[simp] theorem State.nextFree_variant (s : State) : s.nextFree.variant = s.variant := rfl
@[simp] theorem State.nextFree_now (s : State) : s.nextFree.now = s.now := rfl
@[simp] theorem State.nextFree_busM (s : State) : s.nextFree.busM = s.busM := rfl
@[simp] theorem State.nextFree_was (s : State) : s.nextFree.was = s.was := rfl
@[simp] theorem State.nextFree_fw (s : State) : s.nextFree.fw = s.fw := rfl
@[simp] theorem State.nextFree_fwAt (s : State) : s.nextFree.fwAt = s.fwAt := rfl
@[simp] theorem State.nextFree_iram (s : State) : s.nextFree.iram = s.iram := rfl
@[simp] theorem State.nextFree_wram (s : State) : s.nextFree.wram = s.wram := rfl
@[simp] theorem State.nextFree_store (s : State) : s.nextFree.store = s.store := rfl
@[simp] theorem State.nextFree_iramBad (s : State) : s.nextFree.iramBad = s.iramBad := rfl
@[simp] theorem State.nextFree_wramBad (s : State) : s.nextFree.wramBad = s.wramBad := rfl
@[simp] theorem State.nextFree_storeBad (s : State) : s.nextFree.storeBad = s.storeBad := rfl
@[simp] theorem State.nextFree_keepers (s : State) : s.nextFree.keepers = s.keepers := rfl
@[simp] theorem State.nextFree_banks (s : State) : s.nextFree.banks = s.banks := rfl
@[simp] theorem State.nextFree_kic (s : State) : s.nextFree.kic = s.kic := rfl
@[simp] theorem State.nextFree_release (s : State) : s.nextFree.release = s.release := rfl
@[simp] theorem State.nextFree_sems (s : State) : s.nextFree.sems = s.sems := rfl
@[simp] theorem State.nextFree_fe (s : State) : s.nextFree.fe = s.fe := rfl
@[simp] theorem State.nextFree_pairFe (s : State) : s.nextFree.pairFe = s.pairFe := rfl
@[simp] theorem State.nextFree_pairDc (s : State) : s.nextFree.pairDc = s.pairDc := rfl
@[simp] theorem State.nextFree_dc (s : State) : s.nextFree.dc = s.dc := rfl
@[simp] theorem State.nextFree_ss (s : State) : s.nextFree.ss = s.ss := rfl
@[simp] theorem State.nextFree_arb (s : State) : s.nextFree.arb = s.arb := rfl
@[simp] theorem State.nextFree_rc (s : State) : s.nextFree.rc = s.rc := rfl
@[simp] theorem State.nextFree_ce (s : State) : s.nextFree.ce = s.ce := rfl
@[simp] theorem State.nextFree_io (s : State) : s.nextFree.io = s.io := rfl
@[simp] theorem State.nextFree_bc (s : State) : s.nextFree.bc = s.bc := rfl
@[simp] theorem State.nextFree_tw (s : State) : s.nextFree.tw = s.tw := rfl
@[simp] theorem State.nextFree_img (s : State) : s.nextFree.img = s.img := rfl
@[simp] theorem State.nextFree_pwr (s : State) : s.nextFree.pwr = s.pwr := rfl
@[simp] theorem State.nextFree_rst (s : State) : s.nextFree.rst = s.rst := rfl
@[simp] theorem State.nextFree_integ (s : State) : s.nextFree.integ = s.integ := rfl
@[simp] theorem State.nextFree_wideCap (s : State) : s.nextFree.wideCap = s.wideCap := rfl
@[simp] theorem State.nextFree_wideHold (s : State) : s.nextFree.wideHold = s.wideHold := rfl
@[simp] theorem State.nextFree_rdata (s : State) : s.nextFree.rdata = s.rdata := rfl
@[simp] theorem State.nextFree_pending (s : State) : s.nextFree.pending = s.pending := rfl

end Sys2Proof.Machine
end

