-- ==== Sys2Proof/Laws/Memory.lean ====
section
/-! SUPPORT. What the operations on the memories read back, what they leave as it was, and that each keeps the canonical form. -/
namespace Sys2Proof.Machine

/-! ## One byte -/

/-- A byte written reads back; every other byte of every memory reads as before. -/
theorem getByte_putByte (m n : Mem) (s : State) (a x : Nat) (b : Byte) :
    getByte n (putByte m s a b) x = if n = m ∧ x = a then b else getByte n s x := by
  cases m <;> cases n <;> simp [getByte, putByte, memBytes, tget_tput]

/-- A write gives the byte good parity; every other mark is as before. -/
theorem badByte_putByte (m n : Mem) (s : State) (a x : Nat) (b : Byte) :
    badByte n (putByte m s a b) x = if n = m ∧ x = a then false else badByte n s x := by
  cases m <;> cases n <;> simp [badByte, putByte, memMarks, tget_tput]

/-- A mark changes no byte. -/
@[simp] theorem getByte_markByte (m n : Mem) (s : State) (a x : Nat) : getByte n (markByte m s a) x = getByte n s x := by
  cases m <;> cases n <;> rfl

theorem badByte_markByte (m n : Mem) (s : State) (a x : Nat) :
    badByte n (markByte m s a) x = if n = m ∧ x = a then true else badByte n s x := by
  cases m <;> cases n <;> simp [badByte, markByte, memMarks, tget_tput]

/-! ## Runs of bytes -/

/-- Bytes written read back in order; every other byte of every memory reads as before. -/
theorem getByte_putBytes (m n : Mem) (s : State) (a x : Nat) (bs : List Byte) :
    getByte n (putBytes m s a bs) x = if n = m ∧ a ≤ x ∧ x < a + bs.length then bs.getD (x - a) 0 else getByte n s x := by
  induction bs generalizing s a with
  | nil => rw [putBytes, if_neg (by simp only [List.length_nil]; omega)]
  | cons b bs ih =>
    rw [putBytes, ih, getByte_putByte]
    by_cases hn : n = m
    · by_cases hx : x = a
      · subst hx; simp [hn]
      · by_cases hr : a + 1 ≤ x ∧ x < a + 1 + bs.length
        · have h1 : a ≤ x ∧ x < a + (b :: bs).length := by simp only [List.length_cons]; omega
          have h2 : x - a = (x - (a + 1)) + 1 := by omega
          simp only [hn, true_and, hr, h1, and_self, if_true, h2, List.getD_cons_succ]
        · have h1 : ¬ (a ≤ x ∧ x < a + (b :: bs).length) := by simp only [List.length_cons]; omega
          rw [if_neg (fun h => hr h.2), if_neg (fun h => hx h.2), if_neg (fun h => h1 h.2)]
    · simp [hn]

/-- Bytes written have good parity; every other mark is as before. -/
theorem badByte_putBytes (m n : Mem) (s : State) (a x : Nat) (bs : List Byte) :
    badByte n (putBytes m s a bs) x = if n = m ∧ a ≤ x ∧ x < a + bs.length then false else badByte n s x := by
  induction bs generalizing s a with
  | nil => rw [putBytes, if_neg (by simp only [List.length_nil]; omega)]
  | cons b bs ih =>
    rw [putBytes, ih, badByte_putByte]
    by_cases hn : n = m
    · by_cases hx : x = a
      · subst hx; simp [hn]
      · by_cases hr : a + 1 ≤ x ∧ x < a + 1 + bs.length
        · have h1 : a ≤ x ∧ x < a + (b :: bs).length := by simp only [List.length_cons]; omega
          simp only [hn, true_and, hr, h1, and_self, if_true]
        · have h1 : ¬ (a ≤ x ∧ x < a + (b :: bs).length) := by simp only [List.length_cons]; omega
          rw [if_neg (fun h => hr h.2), if_neg (fun h => hx h.2), if_neg (fun h => h1 h.2)]
    · simp [hn]

@[simp] theorem length_leBytes (v n : Nat) : (leBytes v n).length = n := by
  induction n generalizing v with
  | zero => rfl
  | succ n ih => simp [leBytes, ih]

/-- Byte `i` of a little-endian value. -/
theorem getD_leBytes (v n i : Nat) (h : i < n) : (leBytes v n).getD i 0 = BitVec.ofNat 8 (v / 256 ^ i) := by
  induction n generalizing v i with
  | zero => omega
  | succ n ih =>
    cases i with
    | zero => simp [leBytes]
    | succ i =>
      rw [leBytes, List.getD_cons_succ, ih _ _ (by omega), Nat.div_div_eq_div_mul, Nat.pow_succ, Nat.mul_comm]

/-- A value read depends on its bytes alone. -/
theorem getLE_congr (m : Mem) (s t : State) (a n : Nat) (h : ∀ i, i < n → getByte m t (a + i) = getByte m s (a + i)) :
    getLE m t a n = getLE m s a n := by
  induction n generalizing a with
  | zero => rfl
  | succ n ih =>
    have h0 := h 0 (by omega)
    simp only [Nat.add_zero] at h0
    rw [getLE, getLE, h0, ih (a + 1) (fun i hi => by rw [show a + 1 + i = a + (i + 1) by omega]; exact h (i + 1) (by omega))]

/-- The parity of a value depends on its bytes' marks alone. -/
theorem badLE_congr (m : Mem) (s t : State) (a n : Nat) (h : ∀ i, i < n → badByte m t (a + i) = badByte m s (a + i)) :
    badLE m t a n = badLE m s a n := by
  induction n generalizing a with
  | zero => rfl
  | succ n ih =>
    have h0 := h 0 (by omega)
    simp only [Nat.add_zero] at h0
    rw [badLE, badLE, h0, ih (a + 1) (fun i hi => by rw [show a + 1 + i = a + (i + 1) by omega]; exact h (i + 1) (by omega))]

/-- A value that is written elsewhere reads as before. -/
theorem getLE_putBytes_apart (m n : Mem) (s : State) (a b k : Nat) (bs : List Byte) (h : n ≠ m ∨ b + k ≤ a ∨ a + bs.length ≤ b) :
    getLE n (putBytes m s a bs) b k = getLE n s b k := by
  refine getLE_congr n s _ b k (fun i hi => ?_)
  rw [getByte_putBytes, if_neg]
  rintro ⟨hn, h1, h2⟩
  rcases h with h | h | h
  · exact h hn
  · omega
  · omega

theorem badLE_putBytes_apart (m n : Mem) (s : State) (a b k : Nat) (bs : List Byte) (h : n ≠ m ∨ b + k ≤ a ∨ a + bs.length ≤ b) :
    badLE n (putBytes m s a bs) b k = badLE n s b k := by
  refine badLE_congr n s _ b k (fun i hi => ?_)
  rw [badByte_putBytes, if_neg]
  rintro ⟨hn, h1, h2⟩
  rcases h with h | h | h
  · exact h hn
  · omega
  · omega

theorem getLE_eq (m : Mem) (s : State) (a v n : Nat) (h : ∀ i, i < n → getByte m s (a + i) = BitVec.ofNat 8 (v / 256 ^ i)) :
    getLE m s a n = v % 256 ^ n := by
  induction n generalizing a v with
  | zero => simp [getLE, Nat.mod_one]
  | succ n ih =>
    have h0 := h 0 (by omega)
    simp only [Nat.add_zero, Nat.pow_zero, Nat.div_one] at h0
    have hs : getLE m s (a + 1) n = v / 256 % 256 ^ n := by
      refine ih (a + 1) (v / 256) (fun i hi => ?_)
      rw [show a + 1 + i = a + (i + 1) by omega, h (i + 1) (by omega), Nat.div_div_eq_div_mul, Nat.pow_succ, Nat.mul_comm]
    rw [getLE, h0, hs, BitVec.toNat_ofNat, Nat.pow_succ 256 n, Nat.mul_comm (256 ^ n) 256, Nat.mod_mul]

/-- A value written reads back, reduced to its width. -/
theorem getLE_putLE (m : Mem) (s : State) (a v n : Nat) : getLE m (putLE m s a v n) a n = v % 256 ^ n := by
  refine getLE_eq m _ a v n (fun i hi => ?_)
  rw [putLE, getByte_putBytes, if_pos ⟨rfl, by omega, by rw [length_leBytes]; omega⟩, Nat.add_sub_cancel_left]
  exact getD_leBytes v n i hi

/-- A value written has good parity. -/
theorem badLE_putLE (m : Mem) (s : State) (a v n : Nat) : badLE m (putLE m s a v n) a n = false := by
  have h : ∀ k b, a ≤ b → b + k ≤ a + n → badLE m (putLE m s a v n) b k = false := by
    intro k
    induction k with
    | zero => intro b _ _; rfl
    | succ k ih =>
      intro b h1 h2
      rw [badLE, ih (b + 1) (by omega) (by omega), putLE, badByte_putBytes, if_pos ⟨rfl, h1, by rw [length_leBytes]; omega⟩]
      rfl
  exact h n a (Nat.le_refl _) (Nat.le_refl _)

/-! ## Words of the sample store -/

@[simp] theorem storeWord_putStoreWord_same (s : State) (w : Nat) (v : Word) : storeWord (putStoreWord s w v) w = v := by
  rw [storeWord, putStoreWord, getLE_putLE]
  apply BitVec.eq_of_toNat_eq
  have := v.isLt
  simp only [BitVec.toNat_ofNat]
  omega

theorem storeWord_putStoreWord_ne (s : State) (v : Word) {w x : Nat} (h : x ≠ w) : storeWord (putStoreWord s w v) x = storeWord s x := by
  rw [storeWord, putStoreWord, putLE, getLE_putBytes_apart _ _ _ _ _ _ _ (by rw [length_leBytes]; omega), storeWord]

@[simp] theorem storePois_putStoreWord_same (s : State) (w : Nat) (v : Word) : storePois (putStoreWord s w v) w = false := by
  rw [storePois, putStoreWord, badLE_putLE]

theorem storePois_putStoreWord_ne (s : State) (v : Word) {w x : Nat} (h : x ≠ w) : storePois (putStoreWord s w v) x = storePois s x := by
  rw [storePois, putStoreWord, putLE, badLE_putBytes_apart _ _ _ _ _ _ _ (by rw [length_leBytes]; omega), storePois]

/-! ## The EEPROM -/

theorem eepFold_get (bs : List Byte) (t : Tab Byte) (a x : Nat) :
    tget eepErased ((bs.foldl (fun (x : Tab Byte × Nat) b => (tput eepErased x.1 x.2 b, x.2 + 1)) (t, a)).1) x =
      if a ≤ x ∧ x < a + bs.length then bs.getD (x - a) 0 else tget eepErased t x := by
  induction bs generalizing t a with
  | nil => rw [if_neg (by simp only [List.length_nil]; omega)]; rfl
  | cons b bs ih =>
    rw [List.foldl_cons, ih, tget_tput]
    by_cases hx : x = a
    · subst hx; simp
    · by_cases hr : a + 1 ≤ x ∧ x < a + 1 + bs.length
      · have h1 : a ≤ x ∧ x < a + (b :: bs).length := by simp only [List.length_cons]; omega
        have h2 : x - a = (x - (a + 1)) + 1 := by omega
        simp only [hr, h1, and_self, if_true, h2, List.getD_cons_succ]
      · have h1 : ¬ (a ≤ x ∧ x < a + (b :: bs).length) := by simp only [List.length_cons]; omega
        rw [if_neg hr, if_neg hx, if_neg h1]

/-- Bytes written to the EEPROM read back in order; every other byte reads as before. -/
theorem eepByte_eepWrite (s : State) (a x : Nat) (bs : List Byte) :
    eepByte (eepWrite s a bs) x = if a ≤ x ∧ x < a + bs.length then bs.getD (x - a) 0 else eepByte s x := eepFold_get bs _ a x

theorem eepFold_wf (bs : List Byte) (t : Tab Byte) (a : Nat) (w : tabWf eepErased t = true) :
    tabWf eepErased ((bs.foldl (fun (x : Tab Byte × Nat) b => (tput eepErased x.1 x.2 b, x.2 + 1)) (t, a)).1) = true := by
  induction bs generalizing t a with
  | nil => exact w
  | cons b bs ih => rw [List.foldl_cons]; exact ih _ _ (tabWf_tput a b w)

/-! ## Frames -/

@[simp] theorem putByte_variant (m : Mem) (s : State) (a : Nat) (b : Byte) : (putByte m s a b).variant = s.variant := by cases m <;> rfl
@[simp] theorem putByte_now (m : Mem) (s : State) (a : Nat) (b : Byte) : (putByte m s a b).now = s.now := by cases m <;> rfl
@[simp] theorem putByte_busM (m : Mem) (s : State) (a : Nat) (b : Byte) : (putByte m s a b).busM = s.busM := by cases m <;> rfl
@[simp] theorem putByte_was (m : Mem) (s : State) (a : Nat) (b : Byte) : (putByte m s a b).was = s.was := by cases m <;> rfl
@[simp] theorem putByte_fw (m : Mem) (s : State) (a : Nat) (b : Byte) : (putByte m s a b).fw = s.fw := by cases m <;> rfl
@[simp] theorem putByte_fwAt (m : Mem) (s : State) (a : Nat) (b : Byte) : (putByte m s a b).fwAt = s.fwAt := by cases m <;> rfl
@[simp] theorem putByte_keepers (m : Mem) (s : State) (a : Nat) (b : Byte) : (putByte m s a b).keepers = s.keepers := by cases m <;> rfl
@[simp] theorem putByte_banks (m : Mem) (s : State) (a : Nat) (b : Byte) : (putByte m s a b).banks = s.banks := by cases m <;> rfl
@[simp] theorem putByte_kic (m : Mem) (s : State) (a : Nat) (b : Byte) : (putByte m s a b).kic = s.kic := by cases m <;> rfl
@[simp] theorem putByte_release (m : Mem) (s : State) (a : Nat) (b : Byte) : (putByte m s a b).release = s.release := by cases m <;> rfl
@[simp] theorem putByte_sems (m : Mem) (s : State) (a : Nat) (b : Byte) : (putByte m s a b).sems = s.sems := by cases m <;> rfl
@[simp] theorem putByte_fe (m : Mem) (s : State) (a : Nat) (b : Byte) : (putByte m s a b).fe = s.fe := by cases m <;> rfl
@[simp] theorem putByte_pairFe (m : Mem) (s : State) (a : Nat) (b : Byte) : (putByte m s a b).pairFe = s.pairFe := by cases m <;> rfl
@[simp] theorem putByte_pairDc (m : Mem) (s : State) (a : Nat) (b : Byte) : (putByte m s a b).pairDc = s.pairDc := by cases m <;> rfl
@[simp] theorem putByte_dc (m : Mem) (s : State) (a : Nat) (b : Byte) : (putByte m s a b).dc = s.dc := by cases m <;> rfl
@[simp] theorem putByte_ss (m : Mem) (s : State) (a : Nat) (b : Byte) : (putByte m s a b).ss = s.ss := by cases m <;> rfl
@[simp] theorem putByte_arb (m : Mem) (s : State) (a : Nat) (b : Byte) : (putByte m s a b).arb = s.arb := by cases m <;> rfl
@[simp] theorem putByte_rc (m : Mem) (s : State) (a : Nat) (b : Byte) : (putByte m s a b).rc = s.rc := by cases m <;> rfl
@[simp] theorem putByte_ce (m : Mem) (s : State) (a : Nat) (b : Byte) : (putByte m s a b).ce = s.ce := by cases m <;> rfl
@[simp] theorem putByte_io (m : Mem) (s : State) (a : Nat) (b : Byte) : (putByte m s a b).io = s.io := by cases m <;> rfl
@[simp] theorem putByte_bc (m : Mem) (s : State) (a : Nat) (b : Byte) : (putByte m s a b).bc = s.bc := by cases m <;> rfl
@[simp] theorem putByte_tw (m : Mem) (s : State) (a : Nat) (b : Byte) : (putByte m s a b).tw = s.tw := by cases m <;> rfl
@[simp] theorem putByte_img (m : Mem) (s : State) (a : Nat) (b : Byte) : (putByte m s a b).img = s.img := by cases m <;> rfl
@[simp] theorem putByte_pwr (m : Mem) (s : State) (a : Nat) (b : Byte) : (putByte m s a b).pwr = s.pwr := by cases m <;> rfl
@[simp] theorem putByte_rst (m : Mem) (s : State) (a : Nat) (b : Byte) : (putByte m s a b).rst = s.rst := by cases m <;> rfl
@[simp] theorem putByte_integ (m : Mem) (s : State) (a : Nat) (b : Byte) : (putByte m s a b).integ = s.integ := by cases m <;> rfl
@[simp] theorem putByte_wideCap (m : Mem) (s : State) (a : Nat) (b : Byte) : (putByte m s a b).wideCap = s.wideCap := by cases m <;> rfl
@[simp] theorem putByte_wideHold (m : Mem) (s : State) (a : Nat) (b : Byte) : (putByte m s a b).wideHold = s.wideHold := by cases m <;> rfl
@[simp] theorem putByte_rdata (m : Mem) (s : State) (a : Nat) (b : Byte) : (putByte m s a b).rdata = s.rdata := by cases m <;> rfl
@[simp] theorem putByte_free (m : Mem) (s : State) (a : Nat) (b : Byte) : (putByte m s a b).free = s.free := by cases m <;> rfl
@[simp] theorem putByte_pending (m : Mem) (s : State) (a : Nat) (b : Byte) : (putByte m s a b).pending = s.pending := by cases m <;> rfl
@[simp] theorem markByte_variant (m : Mem) (s : State) (a : Nat) : (markByte m s a).variant = s.variant := by cases m <;> rfl
@[simp] theorem markByte_now (m : Mem) (s : State) (a : Nat) : (markByte m s a).now = s.now := by cases m <;> rfl
@[simp] theorem markByte_busM (m : Mem) (s : State) (a : Nat) : (markByte m s a).busM = s.busM := by cases m <;> rfl
@[simp] theorem markByte_was (m : Mem) (s : State) (a : Nat) : (markByte m s a).was = s.was := by cases m <;> rfl
@[simp] theorem markByte_fw (m : Mem) (s : State) (a : Nat) : (markByte m s a).fw = s.fw := by cases m <;> rfl
@[simp] theorem markByte_fwAt (m : Mem) (s : State) (a : Nat) : (markByte m s a).fwAt = s.fwAt := by cases m <;> rfl
@[simp] theorem markByte_keepers (m : Mem) (s : State) (a : Nat) : (markByte m s a).keepers = s.keepers := by cases m <;> rfl
@[simp] theorem markByte_banks (m : Mem) (s : State) (a : Nat) : (markByte m s a).banks = s.banks := by cases m <;> rfl
@[simp] theorem markByte_kic (m : Mem) (s : State) (a : Nat) : (markByte m s a).kic = s.kic := by cases m <;> rfl
@[simp] theorem markByte_release (m : Mem) (s : State) (a : Nat) : (markByte m s a).release = s.release := by cases m <;> rfl
@[simp] theorem markByte_sems (m : Mem) (s : State) (a : Nat) : (markByte m s a).sems = s.sems := by cases m <;> rfl
@[simp] theorem markByte_fe (m : Mem) (s : State) (a : Nat) : (markByte m s a).fe = s.fe := by cases m <;> rfl
@[simp] theorem markByte_pairFe (m : Mem) (s : State) (a : Nat) : (markByte m s a).pairFe = s.pairFe := by cases m <;> rfl
@[simp] theorem markByte_pairDc (m : Mem) (s : State) (a : Nat) : (markByte m s a).pairDc = s.pairDc := by cases m <;> rfl
@[simp] theorem markByte_dc (m : Mem) (s : State) (a : Nat) : (markByte m s a).dc = s.dc := by cases m <;> rfl
@[simp] theorem markByte_ss (m : Mem) (s : State) (a : Nat) : (markByte m s a).ss = s.ss := by cases m <;> rfl
@[simp] theorem markByte_arb (m : Mem) (s : State) (a : Nat) : (markByte m s a).arb = s.arb := by cases m <;> rfl
@[simp] theorem markByte_rc (m : Mem) (s : State) (a : Nat) : (markByte m s a).rc = s.rc := by cases m <;> rfl
@[simp] theorem markByte_ce (m : Mem) (s : State) (a : Nat) : (markByte m s a).ce = s.ce := by cases m <;> rfl
@[simp] theorem markByte_io (m : Mem) (s : State) (a : Nat) : (markByte m s a).io = s.io := by cases m <;> rfl
@[simp] theorem markByte_bc (m : Mem) (s : State) (a : Nat) : (markByte m s a).bc = s.bc := by cases m <;> rfl
@[simp] theorem markByte_tw (m : Mem) (s : State) (a : Nat) : (markByte m s a).tw = s.tw := by cases m <;> rfl
@[simp] theorem markByte_img (m : Mem) (s : State) (a : Nat) : (markByte m s a).img = s.img := by cases m <;> rfl
@[simp] theorem markByte_pwr (m : Mem) (s : State) (a : Nat) : (markByte m s a).pwr = s.pwr := by cases m <;> rfl
@[simp] theorem markByte_rst (m : Mem) (s : State) (a : Nat) : (markByte m s a).rst = s.rst := by cases m <;> rfl
@[simp] theorem markByte_integ (m : Mem) (s : State) (a : Nat) : (markByte m s a).integ = s.integ := by cases m <;> rfl
@[simp] theorem markByte_wideCap (m : Mem) (s : State) (a : Nat) : (markByte m s a).wideCap = s.wideCap := by cases m <;> rfl
@[simp] theorem markByte_wideHold (m : Mem) (s : State) (a : Nat) : (markByte m s a).wideHold = s.wideHold := by cases m <;> rfl
@[simp] theorem markByte_rdata (m : Mem) (s : State) (a : Nat) : (markByte m s a).rdata = s.rdata := by cases m <;> rfl
@[simp] theorem markByte_free (m : Mem) (s : State) (a : Nat) : (markByte m s a).free = s.free := by cases m <;> rfl
@[simp] theorem markByte_pending (m : Mem) (s : State) (a : Nat) : (markByte m s a).pending = s.pending := by cases m <;> rfl
@[simp] theorem putBytes_variant (m : Mem) (s : State) (a : Nat) (bs : List Byte) : (putBytes m s a bs).variant = s.variant := by
  induction bs generalizing s a with
  | nil => rfl
  | cons b bs ih => rw [putBytes, ih, putByte_variant]
@[simp] theorem putBytes_now (m : Mem) (s : State) (a : Nat) (bs : List Byte) : (putBytes m s a bs).now = s.now := by
  induction bs generalizing s a with
  | nil => rfl
  | cons b bs ih => rw [putBytes, ih, putByte_now]
@[simp] theorem putBytes_busM (m : Mem) (s : State) (a : Nat) (bs : List Byte) : (putBytes m s a bs).busM = s.busM := by
  induction bs generalizing s a with
  | nil => rfl
  | cons b bs ih => rw [putBytes, ih, putByte_busM]
@[simp] theorem putBytes_was (m : Mem) (s : State) (a : Nat) (bs : List Byte) : (putBytes m s a bs).was = s.was := by
  induction bs generalizing s a with
  | nil => rfl
  | cons b bs ih => rw [putBytes, ih, putByte_was]
@[simp] theorem putBytes_fw (m : Mem) (s : State) (a : Nat) (bs : List Byte) : (putBytes m s a bs).fw = s.fw := by
  induction bs generalizing s a with
  | nil => rfl
  | cons b bs ih => rw [putBytes, ih, putByte_fw]
@[simp] theorem putBytes_fwAt (m : Mem) (s : State) (a : Nat) (bs : List Byte) : (putBytes m s a bs).fwAt = s.fwAt := by
  induction bs generalizing s a with
  | nil => rfl
  | cons b bs ih => rw [putBytes, ih, putByte_fwAt]
@[simp] theorem putBytes_keepers (m : Mem) (s : State) (a : Nat) (bs : List Byte) : (putBytes m s a bs).keepers = s.keepers := by
  induction bs generalizing s a with
  | nil => rfl
  | cons b bs ih => rw [putBytes, ih, putByte_keepers]
@[simp] theorem putBytes_banks (m : Mem) (s : State) (a : Nat) (bs : List Byte) : (putBytes m s a bs).banks = s.banks := by
  induction bs generalizing s a with
  | nil => rfl
  | cons b bs ih => rw [putBytes, ih, putByte_banks]
@[simp] theorem putBytes_kic (m : Mem) (s : State) (a : Nat) (bs : List Byte) : (putBytes m s a bs).kic = s.kic := by
  induction bs generalizing s a with
  | nil => rfl
  | cons b bs ih => rw [putBytes, ih, putByte_kic]
@[simp] theorem putBytes_release (m : Mem) (s : State) (a : Nat) (bs : List Byte) : (putBytes m s a bs).release = s.release := by
  induction bs generalizing s a with
  | nil => rfl
  | cons b bs ih => rw [putBytes, ih, putByte_release]
@[simp] theorem putBytes_sems (m : Mem) (s : State) (a : Nat) (bs : List Byte) : (putBytes m s a bs).sems = s.sems := by
  induction bs generalizing s a with
  | nil => rfl
  | cons b bs ih => rw [putBytes, ih, putByte_sems]
@[simp] theorem putBytes_fe (m : Mem) (s : State) (a : Nat) (bs : List Byte) : (putBytes m s a bs).fe = s.fe := by
  induction bs generalizing s a with
  | nil => rfl
  | cons b bs ih => rw [putBytes, ih, putByte_fe]
@[simp] theorem putBytes_pairFe (m : Mem) (s : State) (a : Nat) (bs : List Byte) : (putBytes m s a bs).pairFe = s.pairFe := by
  induction bs generalizing s a with
  | nil => rfl
  | cons b bs ih => rw [putBytes, ih, putByte_pairFe]
@[simp] theorem putBytes_pairDc (m : Mem) (s : State) (a : Nat) (bs : List Byte) : (putBytes m s a bs).pairDc = s.pairDc := by
  induction bs generalizing s a with
  | nil => rfl
  | cons b bs ih => rw [putBytes, ih, putByte_pairDc]
@[simp] theorem putBytes_dc (m : Mem) (s : State) (a : Nat) (bs : List Byte) : (putBytes m s a bs).dc = s.dc := by
  induction bs generalizing s a with
  | nil => rfl
  | cons b bs ih => rw [putBytes, ih, putByte_dc]
@[simp] theorem putBytes_ss (m : Mem) (s : State) (a : Nat) (bs : List Byte) : (putBytes m s a bs).ss = s.ss := by
  induction bs generalizing s a with
  | nil => rfl
  | cons b bs ih => rw [putBytes, ih, putByte_ss]
@[simp] theorem putBytes_arb (m : Mem) (s : State) (a : Nat) (bs : List Byte) : (putBytes m s a bs).arb = s.arb := by
  induction bs generalizing s a with
  | nil => rfl
  | cons b bs ih => rw [putBytes, ih, putByte_arb]
@[simp] theorem putBytes_rc (m : Mem) (s : State) (a : Nat) (bs : List Byte) : (putBytes m s a bs).rc = s.rc := by
  induction bs generalizing s a with
  | nil => rfl
  | cons b bs ih => rw [putBytes, ih, putByte_rc]
@[simp] theorem putBytes_ce (m : Mem) (s : State) (a : Nat) (bs : List Byte) : (putBytes m s a bs).ce = s.ce := by
  induction bs generalizing s a with
  | nil => rfl
  | cons b bs ih => rw [putBytes, ih, putByte_ce]
@[simp] theorem putBytes_io (m : Mem) (s : State) (a : Nat) (bs : List Byte) : (putBytes m s a bs).io = s.io := by
  induction bs generalizing s a with
  | nil => rfl
  | cons b bs ih => rw [putBytes, ih, putByte_io]
@[simp] theorem putBytes_bc (m : Mem) (s : State) (a : Nat) (bs : List Byte) : (putBytes m s a bs).bc = s.bc := by
  induction bs generalizing s a with
  | nil => rfl
  | cons b bs ih => rw [putBytes, ih, putByte_bc]
@[simp] theorem putBytes_tw (m : Mem) (s : State) (a : Nat) (bs : List Byte) : (putBytes m s a bs).tw = s.tw := by
  induction bs generalizing s a with
  | nil => rfl
  | cons b bs ih => rw [putBytes, ih, putByte_tw]
@[simp] theorem putBytes_img (m : Mem) (s : State) (a : Nat) (bs : List Byte) : (putBytes m s a bs).img = s.img := by
  induction bs generalizing s a with
  | nil => rfl
  | cons b bs ih => rw [putBytes, ih, putByte_img]
@[simp] theorem putBytes_pwr (m : Mem) (s : State) (a : Nat) (bs : List Byte) : (putBytes m s a bs).pwr = s.pwr := by
  induction bs generalizing s a with
  | nil => rfl
  | cons b bs ih => rw [putBytes, ih, putByte_pwr]
@[simp] theorem putBytes_rst (m : Mem) (s : State) (a : Nat) (bs : List Byte) : (putBytes m s a bs).rst = s.rst := by
  induction bs generalizing s a with
  | nil => rfl
  | cons b bs ih => rw [putBytes, ih, putByte_rst]
@[simp] theorem putBytes_integ (m : Mem) (s : State) (a : Nat) (bs : List Byte) : (putBytes m s a bs).integ = s.integ := by
  induction bs generalizing s a with
  | nil => rfl
  | cons b bs ih => rw [putBytes, ih, putByte_integ]
@[simp] theorem putBytes_wideCap (m : Mem) (s : State) (a : Nat) (bs : List Byte) : (putBytes m s a bs).wideCap = s.wideCap := by
  induction bs generalizing s a with
  | nil => rfl
  | cons b bs ih => rw [putBytes, ih, putByte_wideCap]
@[simp] theorem putBytes_wideHold (m : Mem) (s : State) (a : Nat) (bs : List Byte) : (putBytes m s a bs).wideHold = s.wideHold := by
  induction bs generalizing s a with
  | nil => rfl
  | cons b bs ih => rw [putBytes, ih, putByte_wideHold]
@[simp] theorem putBytes_rdata (m : Mem) (s : State) (a : Nat) (bs : List Byte) : (putBytes m s a bs).rdata = s.rdata := by
  induction bs generalizing s a with
  | nil => rfl
  | cons b bs ih => rw [putBytes, ih, putByte_rdata]
@[simp] theorem putBytes_free (m : Mem) (s : State) (a : Nat) (bs : List Byte) : (putBytes m s a bs).free = s.free := by
  induction bs generalizing s a with
  | nil => rfl
  | cons b bs ih => rw [putBytes, ih, putByte_free]
@[simp] theorem putBytes_pending (m : Mem) (s : State) (a : Nat) (bs : List Byte) : (putBytes m s a bs).pending = s.pending := by
  induction bs generalizing s a with
  | nil => rfl
  | cons b bs ih => rw [putBytes, ih, putByte_pending]

/-! ## The canonical form is kept -/

/-- The canonical form, part by part. -/
theorem memory_wf_iff (s : State) : Memory.wf s = true ↔
    tabWf memDefault s.iram = true ∧ tabWf memDefault s.wram = true ∧ tabWf memDefault s.store = true ∧
    tabWf false s.iramBad = true ∧ tabWf false s.wramBad = true ∧ tabWf false s.storeBad = true ∧ tabWf 0xFF#8 s.img.eeprom = true := by
  simp [Memory.wf, and_assoc]

/-- The canonical form of two states with the same memories. -/
theorem memory_wf_congr {s t : State} (h1 : t.iram = s.iram) (h2 : t.wram = s.wram) (h3 : t.store = s.store)
    (h4 : t.iramBad = s.iramBad) (h5 : t.wramBad = s.wramBad) (h6 : t.storeBad = s.storeBad) (h7 : t.img.eeprom = s.img.eeprom) :
    Memory.wf t = Memory.wf s := by simp only [Memory.wf, h1, h2, h3, h4, h5, h6, h7]

theorem memory_wf_reset : Memory.wf State.reset = true := by decide

theorem memory_wf_putByte (m : Mem) (s : State) (a : Nat) (b : Byte) (w : Memory.wf s = true) : Memory.wf (putByte m s a b) = true := by
  rw [memory_wf_iff] at w ⊢
  obtain ⟨w1, w2, w3, w4, w5, w6, w7⟩ := w
  cases m
  · exact ⟨tabWf_tput a b w1, w2, w3, tabWf_tput (d := false) a false w4, w5, w6, w7⟩
  · exact ⟨w1, tabWf_tput a b w2, w3, w4, tabWf_tput (d := false) a false w5, w6, w7⟩
  · exact ⟨w1, w2, tabWf_tput a b w3, w4, w5, tabWf_tput (d := false) a false w6, w7⟩

theorem memory_wf_markByte (m : Mem) (s : State) (a : Nat) (w : Memory.wf s = true) : Memory.wf (markByte m s a) = true := by
  rw [memory_wf_iff] at w ⊢
  obtain ⟨w1, w2, w3, w4, w5, w6, w7⟩ := w
  cases m
  · exact ⟨w1, w2, w3, tabWf_tput (d := false) a true w4, w5, w6, w7⟩
  · exact ⟨w1, w2, w3, w4, tabWf_tput (d := false) a true w5, w6, w7⟩
  · exact ⟨w1, w2, w3, w4, w5, tabWf_tput (d := false) a true w6, w7⟩

theorem memory_wf_putBytes (m : Mem) (s : State) (a : Nat) (bs : List Byte) (w : Memory.wf s = true) :
    Memory.wf (putBytes m s a bs) = true := by
  induction bs generalizing s a with
  | nil => exact w
  | cons b bs ih => exact ih _ _ (memory_wf_putByte m s a b w)

theorem memory_wf_putLE (m : Mem) (s : State) (a v n : Nat) (w : Memory.wf s = true) : Memory.wf (putLE m s a v n) = true :=
  memory_wf_putBytes m s a _ w

theorem memory_wf_putStoreWord (s : State) (x : Nat) (v : Word) (w : Memory.wf s = true) : Memory.wf (putStoreWord s x v) = true :=
  memory_wf_putLE .store s _ _ _ w

theorem memory_wf_eepWrite (s : State) (a : Nat) (bs : List Byte) (w : Memory.wf s = true) : Memory.wf (eepWrite s a bs) = true := by
  rw [memory_wf_iff] at w ⊢
  obtain ⟨w1, w2, w3, w4, w5, w6, w7⟩ := w
  exact ⟨w1, w2, w3, w4, w5, w6, eepFold_wf bs _ a w7⟩

theorem memory_wf_loseBytes (s : State) (a n : Nat) (w : Memory.wf s = true) : Memory.wf (loseBytes s a n) = true :=
  (memory_wf_congr rfl rfl rfl rfl rfl rfl rfl).trans (memory_wf_putBytes .store s a _ w)

theorem memory_wf_memFreed (s : State) (p : Nat) (w : Memory.wf s = true) : Memory.wf (memFreed s p) = true := by
  rw [memory_wf_iff] at w ⊢
  obtain ⟨w1, w2, w3, w4, w5, w6, w7⟩ := w
  exact ⟨w1, w2, tabWf_tclear _ _ w3, w4, w5, tabWf_tclear _ _ w6, w7⟩

theorem memory_wf_clearBank (s : State) (b : Nat) (w : Memory.wf s = true) : Memory.wf (clearBank s b) = true := by
  rw [memory_wf_iff] at w ⊢
  obtain ⟨w1, w2, w3, w4, w5, w6, w7⟩ := w
  exact ⟨w1, w2, tabWf_filter _ w3, w4, w5, tabWf_filter _ w6, w7⟩

theorem memory_wf_slotLoad (s : State) (i : Nat) (h : Header) (img : List Byte) (c : Content) (cases first : Nat)
    (w : Memory.wf s = true) : Memory.wf (slotLoad s i h img c cases first) = true := by
  rw [memory_wf_iff] at w ⊢
  obtain ⟨-, w2, w3, -, w5, w6, w7⟩ := w
  exact ⟨tabWf_tabFrom _ _ _, w2, w3, rfl, w5, w6, w7⟩

end Sys2Proof.Machine
end

