-- ==== Sys2Proof/Laws/Ops.lean ====
section
/-! SUPPORT. What the shared operations do, once each: bits, time and sensing, register accesses, store buffers, traps, leases. -/
namespace Sys2Proof.Machine

/-! ## Bits -/

/-- A bit set or cleared reads back; the others are as before. -/
theorem bitAt_setBitTo {n : Nat} (w : BitVec n) (i j : Nat) (b : Bool) :
    bitAt (setBitTo w i b) j = if j = i ∧ j < n then b else bitAt w j := by
  unfold setBitTo bitAt
  by_cases hj : j < n
  · by_cases hi : j = i
    · subst hi; cases b <;> simp [hj]
    · by_cases hl : j < i
      · cases b <;> simp [hi, hj, hl]
      · have h0 : j - i ≠ 0 := by omega
        cases b <;> simp [hi, hj, hl, h0]
  · cases b <;> simp [hj, BitVec.getLsbD_of_ge _ _ (Nat.le_of_not_lt hj)]

/-- A saturating count in numbers. -/
theorem toNat_satAdd {n : Nat} (c : BitVec n) (k : Nat) : (satAdd c k).toNat = min (c.toNat + k) (2 ^ n - 1) := by
  have : 0 < 2 ^ n := Nat.two_pow_pos n
  rw [satAdd, BitVec.toNat_ofNat, Nat.mod_eq_of_lt (by omega)]

/-! ## Sensing and time -/

/-- Any run of updates keeps what each of them keeps. -/
theorem foldl_keeps {α β : Type} (p : β → Prop) (f : β → α → β) (h : ∀ b a, p b → p (f b a)) (l : List α) (b : β) (hb : p b) :
    p (l.foldl f b) := by
  induction l generalizing b with
  | nil => exact hb
  | cons a l ih => exact ih _ (h b a hb)

/-- The states that differ from `s` in the interrupt controller alone. -/
def sameButKic (s t : State) : Prop := t = { s with banks := t.banks, kic := t.kic }

theorem sameButKic_refl (s : State) : sameButKic s s := rfl

theorem sameButKic_trans {s t u : State} (h : sameButKic s t) (g : sameButKic t u) : sameButKic s u := by
  unfold sameButKic at *
  rw [g, h]

theorem sameButKic_senseShared (s : State) (n : Nat) (l : Bool) : sameButKic s (senseShared s n l) := rfl
theorem sameButKic_sensePriv (s : State) (k p : Nat) (l : Bool) : sameButKic s (sensePriv s k p l) := rfl
theorem sameButKic_setBank (s : State) (k : Nat) (v : KicBank) : sameButKic s (s.setBank k v) := rfl

theorem sameButKic_applyHeld (s : State) : sameButKic s (applyHeld s) := by
  refine foldl_keeps (sameButKic s) _ (fun t k h => ?_) _ _ ?_
  · by_cases hf : frozen t k = true
    · simpa [hf] using h
    · simp only [hf]; exact sameButKic_trans h rfl
  · by_cases hf : anyFrozen s = true
    · simpa [hf] using sameButKic_refl s
    · simp only [hf]; rfl

/-- A cycle of the interrupt controller changes nothing else. -/
theorem sameButKic_kicCycle (s : State) : sameButKic s (kicCycle s) := by
  refine foldl_keeps (sameButKic s) _ (fun t k h => ?_) _ _ ?_
  · refine sameButKic_trans ?_ (sameButKic_setBank _ _ _)
    exact foldl_keeps (sameButKic s) _ (fun t p h => sameButKic_trans h (sameButKic_sensePriv _ _ _ _)) _ _ h
  · exact foldl_keeps (sameButKic s) _ (fun t n h => sameButKic_trans h (sameButKic_senseShared _ _ _)) _ _ (sameButKic_applyHeld s)

/-- Counting cycles changes the keepers alone. -/
theorem countCycles_eq (s : State) (d : Nat) : ∃ ks, countCycles s d = { s with keepers := ks } := by
  unfold countCycles
  by_cases hc : keepersClocked s = true
  · simp only [hc, Bool.not_true, Bool.false_eq_true, if_false]
    refine foldl_keeps (fun t => ∃ ks, t = { s with keepers := ks }) _ (fun t k h => ?_) _ _ ⟨s.keepers, rfl⟩
    obtain ⟨ks, rfl⟩ := h
    by_cases hr : (State.keeper { s with keepers := ks } k).run && !(State.keeper { s with keepers := ks } k).inhibitCy
    · exact ⟨_, by simp only [hr, if_true]; rfl⟩
    · exact ⟨ks, by simp only [hr, Bool.false_eq_true, if_false]⟩
  · exact ⟨s.keepers, by simp [hc]⟩

/-- Any number of cycles of the interrupt controller changes nothing else. -/
theorem sameButKic_kicCycles (s : State) (d : Nat) : sameButKic s (kicCycles s d) := by
  unfold kicCycles
  split
  · exact sameButKic_refl s
  · split
    · exact sameButKic_kicCycle s
    · exact sameButKic_trans (sameButKic_kicCycle s) (sameButKic_kicCycle _)

/-- Leaving WFI changes the keepers alone. -/
theorem wfiLeaves_eq (s : State) : ∃ ks, wfiLeaves s = { s with keepers := ks } := by
  unfold wfiLeaves
  split
  · exact ⟨s.keepers, rfl⟩
  · refine foldl_keeps (fun t => ∃ ks, t = { s with keepers := ks }) _ (fun t k h => ?_) _ _ ⟨s.keepers, rfl⟩
    obtain ⟨ks, rfl⟩ := h
    unfold wfiLeave
    split
    · exact ⟨_, rfl⟩
    · exact ⟨ks, rfl⟩

/-- The states that differ from `s` in what the passing of time may change: the clocks, the interrupt controller, the keepers' mcycle
and WFI, the alert latch, the wrap's flag, the depth in force and what is remembered of the cycle's start. -/
def sameButTime (s t : State) : Prop :=
  t = { s with now := t.now, busM := t.busM, was := t.was, banks := t.banks, kic := t.kic, keepers := t.keepers,
               tw := { s.tw with alert := t.tw.alert, alertSeen := t.tw.alertSeen },
               pwr := { s.pwr with clkFlt := t.pwr.clkFlt, sscAct := t.pwr.sscAct } }

theorem sameButTime_refl (s : State) : sameButTime s s := rfl

theorem sameButTime_trans {s t u : State} (h : sameButTime s t) (g : sameButTime t u) : sameButTime s u := by
  unfold sameButTime at *
  rw [g, h]

theorem sameButTime_kic {s t : State} (h : sameButKic s t) : sameButTime s t := by
  unfold sameButKic at h
  rw [h]; rfl

theorem sameButTime_countCycles (s : State) (d : Nat) : sameButTime s (countCycles s d) := by
  obtain ⟨ks, h⟩ := countCycles_eq s d
  rw [h]; rfl

theorem sameButTime_wfiLeaves (s : State) : sameButTime s (wfiLeaves s) := by
  obtain ⟨ks, h⟩ := wfiLeaves_eq s
  rw [h]; rfl

/-- Each thing that time sets is one of those that it may change. -/
theorem sameButTime_clock (t : State) (m : Nat) (d : BitVec 2) :
    sameButTime t { t with busM := m, pwr := { t.pwr with sscAct := d } } := rfl
theorem sameButTime_now (t : State) (n : Nat) : sameButTime t { t with now := n } := rfl
theorem sameButTime_was (t : State) (w : Snap) : sameButTime t { t with was := w } := rfl
theorem sameButTime_twLatch (t : State) : sameButTime t (twLatch t) := rfl

theorem sameButTime_clocksRun (s : State) (target : Nat) : sameButTime s (clocksRun s target) := by
  unfold clocksRun
  split
  · exact sameButTime_refl s
  · dsimp only
    generalize hk : kicCycles s _ = k
    generalize hc : countCycles k _ = c
    have h : sameButTime s c := by
      rw [← hc, ← hk]
      exact sameButTime_trans (sameButTime_kic (sameButKic_kicCycles s _)) (sameButTime_countCycles _ _)
    exact sameButTime_trans h (sameButTime_clock c _ _)

theorem sameButTime_wrapMark (s : State) (target : Nat) : sameButTime s (wrapMark s target) := by
  unfold wrapMark
  split
  · rfl
  · exact sameButTime_refl s

/-- All that the passing of time may change. -/
theorem sameButTime_passTime (s : State) (target : Nat) : sameButTime s (passTime s target) := by
  unfold passTime
  split
  · exact sameButTime_refl s
  · dsimp only
    generalize hw : wrapMark (clocksRun (twLatch s) target) target = w
    generalize hv : wfiLeaves { w with now := target } = v
    have h : sameButTime s v := by
      rw [← hv]
      refine sameButTime_trans (sameButTime_trans ?_ (sameButTime_now w target)) (sameButTime_wfiLeaves _)
      rw [← hw]
      exact sameButTime_trans (sameButTime_trans (sameButTime_twLatch s) (sameButTime_clocksRun _ target)) (sameButTime_wrapMark _ target)
    split
    · exact h
    · exact sameButTime_trans h (sameButTime_was _ _)

@[simp] theorem passTime_now (s : State) (target : Nat) : (passTime s target).now = max s.now target := by
  unfold passTime
  split
  · exact (Nat.max_eq_left (by assumption)).symm
  · rw [Nat.max_eq_right (by omega)]
    dsimp only
    generalize wrapMark (clocksRun (twLatch s) target) target = w
    obtain ⟨ks, h⟩ := wfiLeaves_eq { w with now := target }
    rw [h]
    split <;> rfl

theorem memory_wf_passTime (s : State) (target : Nat) : Memory.wf (passTime s target) = Memory.wf s := by
  rw [sameButTime_passTime s target]; exact memory_wf_congr rfl rfl rfl rfl rfl rfl rfl

/-- A cycle that has begun brings no time: commands at their own instant leave the clocks alone. -/
theorem passBus_past {s : State} {c : Nat} (h : 1000 * c ≤ s.busM) : passBus s c = s := by
  unfold passBus
  split
  · have : cycTime s c 32 s.now = s.now := by
      simp only [cycTime]
      rw [if_pos (by omega)]
    rw [this, passTime, if_pos (le_refl _)]
  · rfl

theorem memory_wf_passBus (s : State) (c : Nat) : Memory.wf (passBus s c) = Memory.wf s := by
  unfold passBus
  split
  · exact memory_wf_passTime s _
  · rfl

theorem memory_wf_passCycles (s : State) (n : Nat) : Memory.wf (passCycles s n) = Memory.wf s := memory_wf_passBus s _

/-! ## Two parties in one cycle -/

/-- What firmware has written in this cycle is remembered for this cycle. -/
theorem fwWrote_fwMark (s : State) (blk off inst : Nat) : (s.fwMark blk off inst).fwWrote blk off inst = true := by
  simp [State.fwMark, State.fwWrote, State.cyc]

/-- A counter that firmware has not written in this cycle counts; one that it has keeps the value written (00 R23, R24). -/
theorem bump_free {n : Nat} {s : State} {blk off inst : Nat} (h : s.fwWrote blk off inst = false) (c : BitVec n) (k : Nat) :
    bump s blk off c k inst = satAdd c k := by simp [bump, h]
theorem bump_kept {n : Nat} {s : State} {blk off inst : Nat} (h : s.fwWrote blk off inst = true) (c : BitVec n) (k : Nat) :
    bump s blk off c k inst = c := by simp [bump, h]

/-! ## Commands -/

theorem onBus_runs {s t : State} (h : busRuns s = true) : onBus s t = t := by rw [onBus, if_pos h]
theorem onBus_stopped {s t : State} (h : busRuns s = false) : onBus s t = s := by simp [onBus, h]
theorem done_ok {b : Bool} (h : b = true) (name : String) (t : State) : done b name t = .next t := by rw [done, if_pos h]
theorem done_bad {b : Bool} (h : b = false) (name : String) (t : State) : done b name t = .refused (.illFormed name) := by simp [done, h]

/-! ## Register accesses -/

theorem access_acts {s : State} {r : Req} (h : reqActs s r = true) (f : State → State) : access s r f = f (reqWaits s r) := by
  rw [access, if_pos h]
/-- A requester that cannot act changes nothing. -/
theorem access_idle {s : State} {r : Req} (h : reqActs s r = false) (f : State → State) : access s r f = s := by simp [access, h]
theorem writeReg_idle {s : State} {r : Req} (h : reqActs s r = false) (a v : Nat) : writeReg s r a v = s := access_idle h _
theorem readReg_idle {s : State} {r : Req} (h : reqActs s r = false) (a : Nat) : readReg s r a = s := access_idle h _
theorem writeWide_idle {s : State} {r : Req} (h : reqActs s r = false) (a v n : Nat) : writeWide s r a v n = s := access_idle h _

/-- A write to an address without a register, and one by a link, changes nothing. -/
theorem regWrite_nowhere {s : State} {r : Req} {a : Nat} (h : regValid a = false ∨ reqKeeper r = 4) (v : Nat) : regWrite s r a v = s := by
  unfold regWrite
  rcases h with h | h <;> simp [h]

/-! ## Store buffers -/

/-- One drain: the entry leaves the buffer and its bytes enter working RAM. -/
theorem drainOne_cons {s : State} {k : Nat} {x : StoreEntry} {rest : List StoreEntry} (h : (s.keeper k).sbuf = x :: rest) :
    drainOne s k = putBytes .wram (s.setKeeper k { s.keeper k with sbuf := rest }) x.addr x.bytes := by simp [drainOne, h]

theorem drainOne_nil {s : State} {k : Nat} (h : (s.keeper k).sbuf = []) : drainOne s k = s := by simp [drainOne, h]

/-- With an empty buffer nothing drains. -/
theorem drainAll_nil {s : State} {k : Nat} (h : (s.keeper k).sbuf = []) : drainAll s k = s := by simp [drainAll, drainSome, h]

/-- Writes to working RAM leave everything else as it was. -/
theorem putBytes_wram_eq (s : State) (a : Nat) (bs : List Byte) : ∃ w b, putBytes .wram s a bs = { s with wram := w, wramBad := b } := by
  induction bs generalizing s a with
  | nil => exact ⟨s.wram, s.wramBad, rfl⟩
  | cons x bs ih => obtain ⟨w, b, h⟩ := ih (putByte .wram s a x) (a + 1); exact ⟨w, b, by rw [putBytes, h]; rfl⟩

/-- Drains change working RAM and the keeper's buffer alone. -/
theorem drainSome_eq (s : State) (k n : Nat) : ∃ w b ks, drainSome s k n = { s with wram := w, wramBad := b, keepers := ks } := by
  induction n generalizing s with
  | zero => exact ⟨s.wram, s.wramBad, s.keepers, rfl⟩
  | succ n ih =>
    obtain ⟨w, b, ks, h⟩ := ih (drainOne s k)
    rw [drainSome, h]
    cases hs : (s.keeper k).sbuf with
    | nil => rw [drainOne_nil hs]; exact ⟨w, b, ks, rfl⟩
    | cons x rest =>
      obtain ⟨w', b', hp⟩ := putBytes_wram_eq (s.setKeeper k { s.keeper k with sbuf := rest }) x.addr x.bytes
      rw [drainOne_cons hs, hp]
      exact ⟨w, b, ks, rfl⟩

/-- The keeper drained is the same but for its buffer, and the other keepers are the same. -/
theorem keeper_drainSome (s : State) (k n j : Nat) :
    (drainSome s k n).keeper j = if j = k then { s.keeper k with sbuf := (s.keeper k).sbuf.drop n } else s.keeper j := by
  induction n generalizing s with
  | zero => by_cases h : j = k <;> simp [drainSome, h]
  | succ n ih =>
    rw [drainSome, ih]
    cases hs : (s.keeper k).sbuf with
    | nil => rw [drainOne_nil hs, hs]; by_cases h : j = k <;> simp [h]
    | cons x rest =>
      have hk : ∀ i, (drainOne s k).keeper i = (s.setKeeper k { s.keeper k with sbuf := rest }).keeper i := by
        intro i
        obtain ⟨w, b, hp⟩ := putBytes_wram_eq (s.setKeeper k { s.keeper k with sbuf := rest }) x.addr x.bytes
        rw [drainOne_cons hs, hp]; rfl
      by_cases h : j = k
      · simp [h, hk]
      · simp [h, hk, State.keeper_setKeeper_ne _ _ h]

/-- After every entry has drained the buffer is empty, and nothing else of any keeper has changed. -/
theorem keeper_drainAll (s : State) (k j : Nat) :
    (drainAll s k).keeper j = if j = k then { s.keeper k with sbuf := [] } else s.keeper j := by
  rw [drainAll, keeper_drainSome, List.drop_length]

theorem drainAll_eq (s : State) (k : Nat) : ∃ w b ks, drainAll s k = { s with wram := w, wramBad := b, keepers := ks } := drainSome_eq s k _

theorem memory_wf_drainSome (s : State) (k n : Nat) (w : Memory.wf s = true) : Memory.wf (drainSome s k n) = true := by
  induction n generalizing s with
  | zero => exact w
  | succ n ih =>
    refine ih _ ?_
    cases hs : (s.keeper k).sbuf with
    | nil => rw [drainOne_nil hs]; exact w
    | cons x rest =>
      rw [drainOne_cons hs]
      exact memory_wf_putBytes _ _ _ _ ((memory_wf_congr rfl rfl rfl rfl rfl rfl rfl).trans w)

theorem memory_wf_reqWaits (s : State) (r : Req) (w : Memory.wf s = true) : Memory.wf (reqWaits s r) = true := by
  cases r with
  | keeper k => exact memory_wf_drainSome s k _ w
  | chain => exact w
  | twire => exact w
  | loader => exact w

/-! ## Traps -/

/-- A synchronous exception outside a trap: the pc is saved, interrupts are off, and the keeper goes to mtvec's base. -/
theorem takeException_first {s : State} {k : Nat} (h : (s.keeper k).inTrap = false) (cause tval : Nat) :
    takeException s k cause tval = s.setKeeper k { s.keeper k with
      mepc := (s.keeper k).pc, mcause := BitVec.ofNat 32 cause, mtval := BitVec.ofNat 32 tval,
      mstatusMpie := (s.keeper k).mstatusMie, mstatusMie := false, pc := (s.keeper k).mtvec &&& 0xFFFFFFFC#32, inTrap := true,
      wfi := false } := by
  simp [takeException, h, trapEnter]

/-- A synchronous exception within a trap makes a reset of the keeper due. -/
theorem takeException_double {s : State} {k : Nat} (h : (s.keeper k).inTrap = true) (cause tval : Nat) :
    takeException s k cause tval = causeReset (s.setKeeper k { s.keeper k with rstDbl := true }) k := by
  simp [takeException, h]

/-! ## Leases -/

/-- A lease is held by one keeper at a time: an ACQUIRE of another keeper changes nothing. -/
theorem leaseAcquire_held {l : Lease} {k : Fin 4} (h : l.held = true) (ho : l.owner ≠ k) (now : Nat) : leaseAcquire l k now = l := by
  simp [leaseAcquire, h, ho]

theorem leaseAcquire_granted {l : Lease} {k : Fin 4} (h : l.held = false ∨ l.owner = k) (now : Nat) :
    leaseAcquire l k now = { l with held := true, owner := k, since := now, tmoInForce := max 1 l.tmo.toNat } := by
  rcases h with h | h <;> simp [leaseAcquire, h]

theorem leaseRelease_other {l : Lease} {k : Fin 4} (h : l.held = false ∨ l.owner ≠ k) : leaseRelease l k = l := by
  rcases h with h | h <;> simp [leaseRelease, h]

/-! ## The queue -/

/-- A step takes the front command. -/
theorem step_cons (c : Instr) (rest : List Instr) (s : State) (h : s.pending = c :: rest) : step s = exec c { s with pending := rest } := by
  simp [step, h]

end Sys2Proof.Machine
end

