-- ==== Sys2Proof/Tests/Slice0.lean ====
section
/-! SUPPORT. Tests: an ill-formed term for each check, single steps on small states, and for each statement with
hypotheses a state and operands that meet them. -/
set_option maxRecDepth 20000

namespace Sys2Proof.Tests

open Sys2Proof Sys2Proof.Machine

/-- A hub that runs: PLL locked, image loaded, keepers 0 and 1 released. -/
def awake : State :=
  { pwr := { pllLock := true }, rst := { loaded := true, linksUp := true, startUpDue := false },
    keepers := [(0, { run := true }), (1, { run := true })], release := 3 }

theorem witness_EmptyQueuePassesOneCycle :
    (State.reset.pending = [] ∧ State.reset.rst.porHeld = false) ∧
    (({ rst := { porHeld := true } } : State).pending = [] ∧ ({ rst := { porHeld := true } } : State).rst.porHeld = true) := by
  decide

theorem witness_WellFormedCommandsComplete :
    wellFormed .coarseDelivery = true ∧ wellFormed (.keeperRelease 1 0) = false := by decide

theorem witness_CommandsLeaveTheQueue :
    ∃ t, exec .coarseDelivery State.reset = .next t := ⟨_, rfl⟩

theorem witness_StepsKeepMemoriesCanonical :
    Memory.wf State.reset = true ∧ step State.reset = .next (idleCycle State.reset) := ⟨by decide, rfl⟩

theorem witness_StepsKeepPcsEven :
    pcsEven State.reset ∧ step State.reset = .next (idleCycle State.reset) :=
  ⟨fun _ _ => ⟨rfl, rfl, rfl⟩, rfl⟩

theorem witness_StepsKeepQueuesWithinCapacity :
    queuesFit State.reset ∧ step State.reset = .next (idleCycle State.reset) :=
  ⟨⟨by decide, by decide, by decide, by decide, fun _ => (by decide : (0 : Nat) ≤ 32), fun _ => (by decide : (0 : Nat) ≤ 8)⟩, rfl⟩

theorem witness_KeeperRegisterFile : (1 : Nat) ≠ 0 ∧ (31 : Nat) ≠ 0 ∧ (1 : Nat) ≠ 2 := by decide

/-- `awake` with an instruction at keeper 0's pc. -/
def withCode (w : Nat) : State := putLE .iram awake 0 w 4

theorem witness_FetchReadsImageRam :
    codeAt (withCode 0x00B50533) 0 0x00B50533 = true ∧
    badLE .iram (markByte .iram awake 1) ((markByte .iram awake 1).keeper 0).pc.toNat 2 = true ∧
    (let s : State := { keepers := [(0, { pc := 0x30000 })] }; iramSize ≤ (s.keeper 0).pc.toNat ∧ (s.keeper 0).pc.toNat < wramBase) ∧
    (let s : State := { keepers := [(0, { pc := 0x10040000 })] }; wramBase + wramSize ≤ (s.keeper 0).pc.toNat) := by decide

theorem witness_KeeperRegisterInstructions :
    keeperActs (withCode 0x00B50533) 0 = true ∧
    fetchInstr (withCode 0x00B50533) 0 = .word (some 0x00B50533) 4 (withCode 0x00B50533) ∧
    fld 0x00B50533 0 7 = 0x33 ∧ fld 0x00B50533 25 7 = 0x00 ∧ fld 0x00B50533 12 3 = 0 ∧
    fld 0x02B55533 25 7 = 0x01 ∧ fld 0x02B55533 12 3 = 5 := ⟨by decide, rfl, by decide⟩

theorem witness_KeeperJumpsAndBranches :
    (keeperActs (withCode 0x0080006F) 0 = true ∧
      fetchInstr (withCode 0x0080006F) 0 = .word (some 0x0080006F) 4 (withCode 0x0080006F) ∧ fld 0x0080006F 0 7 = 0x6F) ∧
    (fetchInstr (withCode 0x00008067) 0 = .word (some 0x00008067) 4 (withCode 0x00008067) ∧ fld 0x00008067 0 7 = 0x67 ∧
      fld 0x00008067 12 3 = 0) ∧
    (fetchInstr (withCode 0x00B57463) 0 = .word (some 0x00B57463) 4 (withCode 0x00B57463) ∧ fld 0x00B57463 0 7 = 0x63 ∧
      fld 0x00B57463 12 3 = 7) := ⟨⟨by decide, rfl, by decide⟩, ⟨rfl, by decide⟩, ⟨rfl, by decide⟩⟩

theorem witness_LoadTakesNewestBufferedStore :
    (4 : Nat) ∈ [1, 2, 4] ∧ 0xFFFFFFFF < 256 ^ 4 ∧ 0x3FFFC % 4 = 0 ∧ 0x3FFFC + 4 ≤ wramSize := by
  simp [wramSize]

theorem witness_StoreBufferDrainsInOrder :
    busRuns State.reset = false ∧
    (let s := awake.setKeeper 0 { awake.keeper 0 with sbuf := [⟨0x3FFFF, [1]⟩] }
     busRuns s = true ∧ (s.keeper 0).sbuf = [⟨0x3FFFF, [1]⟩]) := by decide

/-- `withCode` with keeper 0's register 10 at a value. -/
def withCodeX (w : Nat) (v : W32) : State := setX (withCode w) 0 10 v

theorem witness_KeeperMemoryInstructions :
    (keeperActs (withCodeX 0x00B52023 0x1003FFFC) 0 = true ∧
      fetchInstr (withCodeX 0x00B52023 0x1003FFFC) 0 = .word (some 0x00B52023) 4 (withCodeX 0x00B52023 0x1003FFFC) ∧
      fld 0x00B52023 12 3 = 2 ∧ fld 0x00B52023 0 7 = 0x23 ∧
      wramBase ≤ (xr (withCodeX 0x00B52023 0x1003FFFC) 0 (fld 0x00B52023 15 5) + immS 0x00B52023).toNat ∧
      (xr (withCodeX 0x00B52023 0x1003FFFC) 0 (fld 0x00B52023 15 5) + immS 0x00B52023).toNat < wramBase + wramSize ∧
      (xr (withCodeX 0x00B52023 0x1003FFFC) 0 (fld 0x00B52023 15 5) + immS 0x00B52023).toNat % 4 = 0) ∧
    (keeperActs (withCodeX 0x00052583 0xF0000001) 0 = true ∧
      fetchInstr (withCodeX 0x00052583 0xF0000001) 0 = .word (some 0x00052583) 4 (withCodeX 0x00052583 0xF0000001) ∧
      fld 0x00052583 12 3 = 2 ∧ fld 0x00052583 0 7 = 0x03 ∧
      (xr (withCodeX 0x00052583 0xF0000001) 0 (fld 0x00052583 15 5) + immI 0x00052583).toNat % 4 ≠ 0 ∧
      ((withCodeX 0x00052583 0xF0000001).keeper 0).inTrap = false) ∧
    (fetchInstr (withCodeX 0x00B52023 3) 0 = .word (some 0x00B52023) 4 (withCodeX 0x00B52023 3) ∧
      (xr (withCodeX 0x00B52023 3) 0 (fld 0x00B52023 15 5) + immS 0x00B52023).toNat % 4 ≠ 0) :=
  ⟨⟨by decide, rfl, by decide⟩, ⟨by decide, rfl, by decide⟩, ⟨rfl, by decide⟩⟩

theorem witness_KeeperTrapEntryAndDoubleFault :
    (keeperActs (withCode 0x00000073) 0 = true ∧ raises (withCode 0x00000073) 0 11 0 (withCode 0x00000073) ∧
      ((withCode 0x00000073).keeper 0).inTrap = false) ∧
    (let s := (withCode 0x00B5252F).setKeeper 0 { (withCode 0x00B5252F).keeper 0 with inTrap := true }
     keeperActs s 0 = true ∧ raises s 0 2 0 s ∧ (s.keeper 0).inTrap = true ∧
     fetchInstr s 0 = .word (some 0x00B5252F) 4 s ∧ fld 0x00B5252F 0 7 = 0x2F) ∧
    (keeperActs (withCode 0x30200073) 0 = true ∧
      fetchInstr (withCode 0x30200073) 0 = .word (some 0x30200073) 4 (withCode 0x30200073)) :=
  ⟨⟨by decide, .inr (.inr ⟨0x00000073, 4, withCode 0x00000073, rfl, rfl⟩), by decide⟩,
   ⟨by decide, .inr (.inr ⟨0x00B5252F, 4, _, rfl, rfl⟩), by decide, rfl, by decide⟩, ⟨by decide, rfl⟩⟩

/-- Keeper 0 stalled in WFI, MIE and MTIE 1, its timer pending. -/
def timerPending : State :=
  awake.setKeeper 0 { awake.keeper 0 with wfi := true, mstatusMie := true, mtie := true, mtimecmp := 0, mtvec := 0x101 }

theorem witness_KeeperInterruptEntry :
    keeperActs (timerPending.setKeeper 0 { timerPending.keeper 0 with wfi := false }) 0 = true ∧
    (timerPending.keeper 0).mstatusMie = true ∧
    (meip timerPending 0 && (timerPending.keeper 0).meie || mtip timerPending 0 && (timerPending.keeper 0).mtie) = true := by decide

theorem witness_KeeperFenceAndWfi :
    (keeperActs (withCode 0x0000100F) 0 = true ∧
      fetchInstr (withCode 0x0000100F) 0 = .word (some 0x0000100F) 4 (withCode 0x0000100F) ∧ fld 0x0000100F 0 7 = 0x0F ∧
      fld 0x0000100F 12 3 < 2) ∧
    (keeperActs (withCode 0x10500073) 0 = true ∧
      fetchInstr (withCode 0x10500073) 0 = .word (some 0x10500073) 4 (withCode 0x10500073)) :=
  ⟨⟨by decide, rfl, by decide⟩, ⟨by decide, rfl⟩⟩

theorem witness_CommandsOfIdleRequestersWriteNothing :
    wellFormed (.doorbell 1 3) = true ∧ registerCommand (.doorbell 1 3) = some (.keeper 1) ∧
    reqActs State.reset (.keeper 1) = false ∧ registerCommand (.feCtrlWrite .chain 1) = some .chain ∧
    wellFormed (.registerWrite .loader 0x4000C000 0) = true ∧ reqActs awake .loader = false := by decide

theorem witness_WideValuesAreCapturedAndHeld : keeperActs awake 1 = true := by decide

theorem witness_RegisterWriteStoresOrIsIgnored :
    mayWrite awake (.keeper 1) = true ∧
    (let s := { awake with variant := .thr6412 }; mayWrite s (.keeper 0) = true ∧ s.variant ≠ .thr6420) := by decide

theorem witness_KeeperReleaseAndResetCommand :
    (keeperActs awake 0 = true ∧ (3 : Fin 4) ≠ 0 ∧ (3 : Fin 4).val < nKeepers awake ∧ bitAt awake.release 3 = false ∧
      (awake.keeper 3).resetDue = false) ∧ bitAt awake.release 1 = true := by decide

theorem witness_DebugHaltAndResume :
    (hallmark awake ≠ 2 ∧ 1 < nKeepers awake ∧ keepersClocked awake = true ∧ awake.rst.pending = false ∧
      (awake.keeper 1).run = true ∧ keeperDoomed awake 1 = false ∧ (awake.keeper 1).dbgHalt = false) ∧
    (let s := awake.setKeeper 1 { awake.keeper 1 with dbgHalt := true }
     hallmark s ≠ 2 ∧ 1 < nKeepers s ∧ keepersClocked s = true ∧ s.rst.pending = false ∧
      (s.keeper 1).run = true ∧ keeperDoomed s 1 = false ∧ (s.keeper 1).dbgHalt = true ∧ debugInOk ⟨[(0x3FFFF, 7)], none⟩ = true) ∧
    hallmark { awake with integ := { hallmark := 2 } } = 2 ∧ debugInOk ⟨[(0x40000, 7)], none⟩ = false := by decide

theorem witness_DebugStartsK0InReturned :
    let s : State := { awake with keepers := [], integ := { hallmark := 3, safe := true } }
    hallmark s = 3 ∧ s.integ.safe = true ∧ keepersClocked s = true ∧ s.rst.pending = false ∧ (s.keeper 0).run = false ∧
      debugInOk ⟨[], some 0x00100000#32⟩ = true := by decide

/-- In RETURNED the debug module writes working RAM and starts K0 there (14 R607). -/
theorem test_debug_starts_k0 :
    let s : State := { awake with keepers := [], integ := { hallmark := 3, safe := true } }
    ∃ t, exec (.debugResume 0 ⟨[(4, 0x13)], some 0x00100004#32⟩) s = .next t ∧ (t.keeper 0).pc = 0x00100004 ∧
      (t.keeper 0).run = true ∧ getByte .wram t 4 = 0x13 := ⟨_, rfl, by decide⟩

theorem witness_KeeperAloneResetKeepsAndClears :
    (let s := awake.setKeeper 1 { awake.keeper 1 with resetDue := true }
     busRuns s = true ∧ s.rst.pending = false ∧ (s.keeper 1).resetDue = true) ∧
    (let s : State := { awake with integ := { seqDue := true } }; busRuns s = true ∧ s.rst.pending = false ∧ s.integ.seqDue = true) ∧
    busRuns State.reset = false := by decide

/-- Keeper 1's watchdog has run for its time in the stage given. -/
def wdtDue (stage : Bool) : State :=
  { awake.setKeeper 1 { awake.keeper 1 with wdtEn := true, wdtTimeout := 1, wdtStage := stage, wdtFrom := some 0 } with now := 96000 }

theorem witness_MachineTimerAndWatchdog :
    (let s := awake.setKeeper 1 { awake.keeper 1 with mtimecmp := 1 }
     s.rst.porHeld = false ∧ s.e < (s.keeper 1).mtimecmp.toNat ∧ (s.keeper 1).mtimecmp.toNat < 2 ^ 52) ∧
    (busRuns (wdtDue false) = true ∧ wdtOver (wdtDue false) 1 = true ∧ ((wdtDue false).keeper 1).wdtStage = false) ∧
    (wdtOver (wdtDue true) 1 = true ∧ ((wdtDue true).keeper 1).wdtStage = true ∧ keeperDoomed (wdtDue true) 1 = false) ∧
    wdtOver awake 1 = false ∧ keeperActs awake 1 = true ∧ (0x4B1D : Word) ≠ 0x4B1C := by decide

theorem witness_DoorbellsAndSemaphores :
    keeperActs awake 1 = true ∧
    (let s := { awake with sems := [(15, some 1)] }; keeperActs s 1 = true ∧ semOwner s 15 = some 1) ∧
    semOwner awake 15 ≠ some 1 := by decide

theorem witness_SourceSensingSetsPending :
    busRuns awake = true ∧ ((104 : Fin 256).val ∈ sharedInputs ∧ (104 : Fin 256).val ≥ 69 ∧ sharedLevel awake 104 = false) ∧
    ((0 : Fin 256).val ∈ sharedInputs ∧ (0 : Fin 256).val < 65 ∧ sharedLevel awake 0 = false) ∧
    ((3 : Fin 4).val < nKeepers awake ∧ (7 : Fin 32).val < 8 ∧ privLevel awake 3 7 = false) := by decide

/-- Shared source 5 is pending for keeper 1 with priority 9. -/
def pending5 : State := { awake with kic := { scfg := [(5, 0x0109)], spend := 1#256 <<< 5, smask := 0 } }
/-- Keeper 1 has source 5 in service. -/
def inService5 : State := awake.setBank 1 { stack := [⟨0x105, 9⟩] }

theorem witness_ClaimCompleteAndPendingWrite :
    mayWrite awake (.keeper 0) = true ∧ (1 : Fin 4).val < nKeepers awake ∧
    (keeperActs pending5 1 = true ∧ claimStalls pending5 1 = false ∧ topSource pending5 1 = some (0x105, 9)) ∧
    (let s := pending5.setBank 0 { freezeAt := some 0 }; keeperActs s 1 = true ∧ claimStalls s 1 = true) ∧
    (keeperActs inService5 1 = true ∧ (inService5.bank 1).stack = [⟨0x105, 9⟩]) := by decide

theorem witness_FreezeAndItsTimeout :
    keeperActs awake 1 = true ∧ (awake.bank 1).freezeAt = none ∧
    (let s := ({ awake with busM := 64000 } : State).setBank 3 { freezeAt := some 0 }
     busRuns s = true ∧ (s.bank 3).freezeAt = some 0 ∧ 0 + 64 ≤ s.cyc) ∧
    (let s := ({ awake with busM := 63999 } : State).setBank 3 { freezeAt := some 0 }; (s.bank 3).freezeAt = some 0 ∧ s.cyc < 0 + 64) := by
  decide

/-- Watch entry 15 enabled for a source, in a power state. -/
def watching (src : Word) (st : PwrState) : State :=
  { awake with kic := { watch := [(15, 0x8000 ||| src)] }, pwr := { pllLock := true, st := st } }

theorem witness_WatchEventWakes :
    bitAt (tget 0 awake.kic.watch 15) 15 = false ∧
    (bitAt (tget 0 (watching 68 .sleep).kic.watch 15) 15 = true ∧ (watching 68 .sleep).pwr.st = .sleep ∧
      (tget 0 (watching 68 .sleep).kic.watch 15).toNat % 256 = 68) ∧
    ((watching 69 .sleep).pwr.entering = false ∧ (tget 0 (watching 69 .sleep).kic.watch 15).toNat % 256 = 69) ∧
    ((watching 5 .doze).pwr.st ≠ .sleep ∧ (watching 5 .doze).pwr.st = .doze) := by decide

theorem witness_FrontEndSettingsAreStored :
    (mayWrite awake (.keeper 0) = true ∧ 16 * (11 : Fin 12).val < nPairs awake) ∧
    (let s := { awake with variant := .thr6412 }; mayWrite s (.keeper 0) = true ∧ nPairs s ≤ 16 * (6 : Fin 12).val ∧
      16 * (5 : Fin 12).val < nPairs s) := by decide

/-- A swap measurement with 100 µA in every pair. -/
def swapIn100 : SwapIn := ⟨List.replicate 192 100, 5000, 0, 2500⟩

theorem witness_SwapInstantTakesSettings :
    swapInOk swapIn100 = true ∧ feRuns awake = true ∧ feRuns State.reset = false ∧ nVouts awake ≠ 0 := by decide

theorem witness_OverloadSetsSticky :
    (let s := awake.setPfe 191 { st := .ok }; feRuns s = true ∧ (191 : Fin 192).val < nPairs s ∧ (s.pfe 191).st ≠ .off) ∧
    (awake.pfe 0).st = .off := by decide

theorem witness_CurrentsDecidePairStates :
    ((1 : Nat) ≤ 1 ∧ 12001 < 65536) ∧
    (let s := awake.setPfe 191 { st := .ok, decide := some .short }; feRuns s = true ∧ (s.pfe 191).decide = some .short) ∧
    feRuns State.reset = false := by decide

theorem witness_CicOutputFeedsEveryPair :
    (List.replicate 192 (0 : BitVec 64)).length = 192 ∧ ([] : List (BitVec 64)).length ≠ 192 ∧ feRuns awake = true ∧
    feRuns State.reset = false ∧
    (0 < nPairs awake ∧ sliceOn awake 0 = false ∧ (awake.pdc 0).restartDue = none ∧ (awake.pdc 0).change = none) := by decide

theorem witness_RoundingIsNearestTiesAway : (0 : Nat) < 16384 := by decide

theorem witness_FilterOutputsAreExact :
    feRuns awake = true ∧ feRuns State.reset = false ∧
    (0 < nPairs awake ∧ cwMode (awake.pdc 0).filt.word = 2 ∧ (awake.pdc 0).change = none ∧ (awake.pdc 0).restartDue = none ∧
      (awake.pfe 0).decide = none) ∧
    (let s := awake.setPdc 191 { filt := { word := 0x0007 } }; cwMode (s.pdc 191).filt.word = 7 ∧ (s.pdc 191).change = none) := by decide

theorem witness_DeliveriesUpdateRegisters :
    (feRuns awake = true ∧ awake.dc.coarseDues = [] ∧ awake.dc.dues = [] ∧ feRuns State.reset = false) ∧
    (let s := ({ awake with dc := { coarseDues := [128], dues := [(512, 0)] } } : State).setPdc 191
        { coarseNow := some (128, 5, 0), outs := [⟨512, 0, 7, 0⟩] }
     feRuns s = true ∧ s.dc.coarseDues = 128 :: [] ∧ firstDue s.dc.dues = some (512, 0) ∧ (s.pdc 191).change = none ∧
     (s.pdc 191).coarseNow = some (128, 5, 0) ∧ (s.pdc 191).restartDue = none ∧ (s.pfe 191).decide = none) ∧
    (let c : Change := { word := 0, start := 0, running := true, fade := 512, uOld := some (8192, 3), uNew := some (8192, 4) }
     let s := ({ awake with dc := { dues := [(8192, 0)] } } : State).setPdc 0 { filt := { word := 8 }, change := some c }
     firstDue s.dc.dues = some (8192, 0) ∧ (s.pdc 0).change = some c ∧ fadeMode (s.pdc 0).filt.word c.word = 0 ∧
     (8192 - c.fade) % slowPeriod (s.pdc 0).filt.word c.word = 0 ∧
     (8192 - c.fade) / slowPeriod (s.pdc 0).filt.word c.word + 1 = cwFade c.word) := by decide

theorem witness_LiveChangeIsAcceptedOrRejected :
    ((191 : Fin 192).val < nPairs awake ∧ sliceOn awake 191 = false ∧ mayWrite awake (.keeper 0) = true ∧
      (bitAt awake.dc.busy 191 || (cwMode (awake.pdc 191).next < 6 && awake.dc.sets.toNat ≤ cwSet (awake.pdc 191).next)) = true) ∧
    (let s : State := { awake with dc := { sets := 1 } }
     (bitAt s.dc.busy 0 || (cwMode (s.pdc 0).next < 6 && s.dc.sets.toNat ≤ cwSet (s.pdc 0).next)) = false) ∧
    (let c : Change := { word := 6, start := 0 }
     let s := (awake.setPdc 0 { change := some c }).setPfe 0 { st := .ok }
     (s.pdc 0).change = some c ∧ c.running = false ∧ feRuns s = true ∧ c.start ≤ s.per ∧ (s.pfe 0).st ≠ .off ∧
     cwMode c.word ≠ cwMode (s.pdc 0).filt.word ∧ cwAlign c.word = false) := by decide

theorem witness_ChainRestartClears :
    (let s := awake.setPdc 191 { restartDue := some (128, 0), change := some { word := 7, start := 0 } }
     feRuns s = true ∧ (s.pdc 191).restartDue = some (128, 0)) ∧ feRuns State.reset = false := by decide

theorem witness_LeasesAreGrantedRenewedAndLost :
    keeperActs awake 1 = true ∧
    (let l : Lease := { held := true, tmoInForce := 1, since := 0 }
     let s : State := { awake with busM := 1024000, ss := { lease := l } }
     busRuns s = true ∧ s.ss.lease.held = true ∧ s.ss.lease.since + 1024 * s.ss.lease.tmoInForce ≤ s.cyc) ∧
    busRuns State.reset = false := by decide

theorem witness_StreamsAreArmedAfterTheChecks :
    (mayWrite awake (.keeper 0) = true ∧ bitAt (0x8000 : Word) 15 = true ∧ bitAt (0 : Word) 15 = false) ∧
    (let s := (awake.setStrm 255 { checking := true, kind := 1, rlen := 1 }).setPage 16 ⟨.allocated, 1⟩
     let s : State := { s with ss := { s.ss with ring := [(0, 16)] } }
     busRuns s = true ∧ (s.strm 255).checking = true ∧ armCheck s 255 = 0) ∧
    (let s := awake.setStrm 0 { checking := true, kind := 5 }
     busRuns s = true ∧ (s.strm 0).checking = true ∧ armCheck s 0 = 0) := by decide

theorem witness_PositionWritesAndStatusRead :
    mayWrite awake (.keeper 1) = true ∧ (191 : Fin 192).val < nPairs awake ∧
    (let s := { awake with variant := .thr6404 }; mayWrite s (.keeper 1) = true ∧ nPairs s ≤ (48 : Fin 192).val) ∧
    (let st : Stream := { rlen := 1, head := 5 }
     let s := awake.setStrm 0 st
     mayWrite s (.keeper 0) = true ∧ strmWrap (s.strm 0) = 2 ^ 32 ∧ strmLevel (s.strm 0) = 5) := by decide

theorem witness_PagesAreAllocatedFreedAndRetired :
    (let s : State := { awake with ss := { lease := { held := true, owner := 1 }, freePage := 16, pages := [(16, ⟨.allocated, 7⟩)] } }
     keeperActs s 1 = true ∧ (s.keeper 1).allocNext = none ∧ s.ss.lease.owner = 1 ∧ (s.page 16).tag = 7 ∧
     ((s.page 17).st = .free ∧ 17 % nBanks s % 4 = 1) ∧ (s.page 8191).st = .free) ∧
    (let s := awake.setKeeper 0 { allocNext := some 5 }; busRuns s = true ∧ (s.keeper 0).allocNext = some 5) ∧
    (mayWrite awake (.keeper 0) = true ∧ (awake.page 8191).st = .free ∧ (awake.page 0).st = .locket) := by decide

theorem witness_ScrubbersReadAndLapsEnd :
    (groupIdles awake 3 = true ∧ busRuns awake = true ∧ awake.ss.scrubEn = true ∧ tget 0 awake.ss.scrubPos 3 < nPages awake / 4 * 2048 ∧
      (awake.page 3).st ≠ .borrowed) ∧
    (let s := { awake.setPage 16 ⟨.borrowed, 0⟩ with ss := { (awake.setPage 16 ⟨.borrowed, 0⟩).ss with scrubPos := [(0, 8192)] } }
     groupIdles s 0 = true ∧ (s.page (4 * (8192 / 2048) + 0)).st = .borrowed) ∧
    (let m := 2048 * 2048
     let s : State := { awake with ss := { scrubPos := [(0, m), (1, m), (2, m), (3, m)] } }
     busRuns s = true ∧ s.ss.scrubEn = true ∧ ∀ g, g < 4 → nPages s / 4 * 2048 ≤ tget 0 s.ss.scrubPos g) ∧
    mayWrite awake (.keeper 0) = true ∧ busRuns State.reset = false := by decide

theorem witness_ImageWordsAreScrubbedAndRefetched :
    (busRuns awake = true ∧ awake.ss.iscrubEn = true ∧ busRuns State.reset = false) ∧
    (let s : State := { awake with ss := { refetches := [0] }, img := { len := 4 } }
     s.pwr.st ≠ .sleep ∧ s.rst.porHeld = false ∧ s.ss.refetches = 0 :: [] ∧ 4 * 0 < s.img.len.toNat) ∧
    mayWrite awake (.keeper 0) = true := by decide

/-- A hub with stream 7 of the kind given armed over pages 16 and 17. -/
def withStream (kind : BitVec 3) : State :=
  let s := awake.setStrm 7 { armed := true, kind := kind, rlen := 2 }
  { s with ss := { s.ss with ring := [(0, 16), (1, 17)] } }

theorem witness_RecordsAreWrittenWholeOrDiscarded :
    (let r : Rec := { stream := 7, e := 0, words := [0x1004, 0, 0, 0, 0] }
     let s := { withStream 1 with ss := { (withStream 1).ss with ready := [r] } }
     busRuns s = true ∧ s.ss.ready.find? (fun x => x.stream == 7) = some r ∧ earlierWaits s 7 r.ord = false ∧
     (s.strm 7).armed = true ∧ (s.strm 7).gaps = []) ∧
    (let r : Rec := { stream := 7, e := 0, words := [0x4007, 0, 0, 0, 0, 0, 0, 0] }
     let s := { withStream 4 with ce := { wq := [r] } }
     s.ce.wq = r :: [] ∧ (s.strm r.stream).armed = true ∧ (nth 0 r.words 0).extractLsb' 12 4 ≠ 6#4 ∧ (s.strm r.stream).kind = 4 ∧
     earlierWaits s 7 r.ord = false) ∧
    (let f : Frame := { e := 0, tag := 1, bytes := [0x41] }
     let s := (withStream 3).setPort 15 { stream := 7, done := [f] }
     firstFrame s = some (15, f) ∧ (s.strm 7).kind = 3 ∧ earlierWaits s 7 f.ord = false) := by decide

/-- A request of one word of page 16, in group 0. -/
def req1 : ArbRequest := ⟨16, 0, 1, false, [], [], none⟩
/-- A write of four words to page 16, with a wait of one cycle before the second. -/
def req4 : ArbRequest := ⟨16, 2044, 4, true, [1, 2, 3, 0xABCD], [0, 1, 0, 0], none⟩
/-- Group 0 in the state given, in a power-fail warning, at cycle 64. -/
def group0 (a : ArbGroup) : State :=
  let s := { awake with now := 64, busM := 64000, pwr := { pllLock := true, port11 := true } }
  s.setAgrp 0 a
/-- Port 2 holds group 0 with `req4` since a grant cycle. -/
def holds2 (start : Nat) : ArbGroup :=
  { grant := some ⟨2, 4, start, start + 1, 64, true⟩, owner := 2, reqs := [(2, some ⟨req4, start⟩)] }

theorem witness_ArbiterRaisesAndGrantsInOrder :
    (requestOk req1 = true ∧ requestOk req4 = true ∧ requestOk { req4 with start := 2045 } = false ∧ busRuns (group0 {}) = true ∧
      req1.page.val < nPages (group0 {}) ∧ req1.page.val % 4 = (0 : Fin 4).val ∧ arbReq (group0 {}) ((group0 {}).agrp 0) 10 = none ∧
      (group0 {}).pwr.port11 = true ∧ (((group0 {}).agrp 0).grant = none) ∧ portBlocked (group0 {}) 10 = false) ∧
    (let s := group0 { parked := true, owner := 2 }
     (s.agrp 0).parked = true ∧ (s.agrp 0).owner = 2 ∧ (s.agrp 0).grant = none ∧ (s.agrp 0).susp = none ∧
     ∀ h, h < 12 → h ≠ 2 → arbWants s { s.agrp 0 with reqs := tput none (s.agrp 0).reqs 2 (some ⟨req1, s.cyc⟩) } h = false) ∧
    (let s := group0 (holds2 60)
     (s.agrp 0).grant = some ⟨2, 4, 60, 61, 64, true⟩ ∧ (2 : Nat) ≠ 11 ∧ movedBy ⟨2, 4, 60, 61, 64, true⟩ req4 s.cyc = 3) ∧
    (let s := group0 { susp := some ⟨2, 1, 0, 2, 64, false⟩, freeAt := 10 }
     (s.agrp 0).susp = some ⟨2, 1, 0, 2, 64, false⟩ ∧ (s.agrp 0).grant = none ∧ arbReq s (s.agrp 0) 11 = none ∧ (s.agrp 0).freeAt ≤ s.cyc) ∧
    (let s := group0 { dropped := [(7, some (req1, 70))] }
     tget none (s.agrp 0).dropped 7 = some (req1, 70) ∧ requestOk req1 = true) ∧
    (let s := group0 { reqs := [(9, some ⟨req1, 3⟩)] }
     arbWants s (s.agrp 0) 9 = true ∧ (s.agrp 0).susp = none ∧ ∀ h, h < 12 → h ≠ 9 → arbWants s (s.agrp 0) h = false) ∧
    (let s := group0 { reqs := [(0, some ⟨req1, 3⟩), (10, some ⟨req1, 3⟩)], lastClassHigh := true }
     arbWants s (s.agrp 0) 0 = true ∧ arbWants s (s.agrp 0) 10 = true ∧ (s.agrp 0).lastClassHigh = true) ∧
    ((passBus (group0 (holds2 64)) 65).cyc ≤ 65 ∧ 61 < (passBus (group0 (holds2 60)) 61).cyc) ∧ busRuns State.reset = false := by
  decide

/-- A grant of an idle group has a grant cycle; the first word moves in the cycle after it (05 R222, R223). -/
theorem test_grant_has_a_grant_cycle :
    ∃ t, exec (.arbiterGrant 0) (group0 { reqs := [(2, some ⟨req4, 60⟩)] }) = .next t ∧
      (t.agrp 0).grant = some ⟨2, 4, 64, 65, 64, true⟩ := ⟨_, rfl, by decide⟩
/-- Port 11 suspends a burst: the words whose cycles have come are stored, the rest stays (05 R230). -/
theorem test_port11_suspends :
    ∃ t, exec (.arbiterRequest 0 11 req1) (group0 (holds2 60)) = .next t ∧ (t.agrp 0).susp = some ⟨2, 1, 60, 64, 64, true⟩ ∧
      (t.agrp 0).grant = some ⟨11, 1, 66, 66, 64, false⟩ ∧ storeWord t (16 * 2048 + 2046) = 3 ∧ storeWord t (16 * 2048 + 2047) = 0 :=
  ⟨_, rfl, by decide⟩

/-- Port 2's burst has hold limit 64; one word waits 100 cycles. -/
def late2 : ArbGroup :=
  { grant := some ⟨2, 4, 0, 1, 64, true⟩, owner := 2, reqs := [(2, some ⟨{ req4 with waits := [0, 100, 0, 0] }, 0⟩)] }

theorem witness_BurstsMoveOrAreCutOff :
    (wordCycles 65 4 [0, 1, 0, 0] = [65, 66, 68, 69] ∧ (2 : Nat) < 4) ∧
    (let s := group0 (holds2 60)
     busRuns s = true ∧ (s.agrp 0).grant = some ⟨2, 4, 60, 61, 64, true⟩ ∧ tget none (s.agrp 0).reqs 2 = some ⟨req4, 60⟩ ∧
     requestOk req4 = true ∧ lastCycle ⟨2, 4, 60, 61, 64, true⟩ req4 < 60 + 64) ∧
    (let s := group0 late2
     (s.agrp 0).grant = some ⟨2, 4, 0, 1, 64, true⟩ ∧ ¬ lastCycle ⟨2, 4, 0, 1, 64, true⟩ { req4 with waits := [0, 100, 0, 0] } < 0 + 64 ∧
     (s.keeper 0).run = true ∧ (s.keeper 0).inTrap = false) ∧
    (let s := group0 { reqs := [(9, some ⟨req1, 3⟩)] }
     let s : State := { s with arb := { s.arb with block := 0x200 } }
     busRuns s = true ∧ portBlocked s 9 = true ∧ arbInBurst (s.agrp 0) 9 = false ∧ arbRaised s (s.agrp 0) 9 = some ⟨req1, 3⟩ ∧
     portBlocked (passBus s 4) 9 = true ∧ (arbRaised (passBus s 4) (s.agrp 0) 9).isSome = true ∧ s.ss.scrubEn = true) ∧
    (∀ g, g < 4 → arbReq awake (awake.agrp g) 6 = none ∧ arbReq awake (awake.agrp g) 7 = none) ∧
    busRuns State.reset = false ∧ mayWrite awake (.keeper 1) = true := by decide

/-- A cut-off keeps the words whose cycles came within the limit and records those left (05 R234). -/
theorem test_cutoff_keeps_moved_words :
    ∃ t, exec (.holdCutoff 0 1) (group0 late2) = .next t ∧ storeWord t (16 * 2048 + 2044) = 1 ∧ storeWord t (16 * 2048 + 2045) = 0 ∧
      (t.agrp 0).cutLeft = 3 ∧ bitAt t.arb.block 2 = true ∧ (t.keeper 0).mcause = 7 := ⟨_, rfl, by decide⟩

/-- A hub whose pod 31 has the decision `d` due. -/
def withDue (d : RcDue) (pd : Pod) : State := awake.setPod 31 { pd with dues := [d] }

theorem witness_RecognizerDecisionsAreCarriedOut :
    (busRuns (withDue .fall {}) = true ∧ (∀ j, j < 31 → ((withDue .fall {}).pod j).dues = []) ∧
      ((withDue .fall {}).pod 31).dues = .fall :: []) ∧
    (let pd : Pod := { det := .active 100 300 140 48, inForce := { en := true }, refTap := some 90, lastCounted := some 80 }
     let s := withDue .impulseEnd pd
     (s.pod 31).det = .active 100 300 140 48 ∧ (s.pod 31).refTap = some 90 ∧ (s.pod 31).inForce.tapEn = true ∧
     (s.pod 31).inForce.tapPeak.toNat ≤ 300 ∧ 140 - 100 + 1 ≤ (s.pod 31).inForce.tapWmax.toNat) ∧
    (let pd : Pod := { det := .active 10000 100 10300 48, inForce := { en := true }, lastCounted := some 0, train := true, count := 3 }
     let s := withDue .impulseEnd pd
     ¬ (s.pod 31).inForce.tapPeak.toNat ≤ 100 ∧ (s.pod 31).inForce.fsPeak.toNat ≤ 100 ∧ (s.pod 31).inForce.fsWmin.toNat ≤ 301 ∧
     301 ≤ (s.pod 31).inForce.fsWmax.toNat ∧ (s.pod 31).inForce.fsImin.toNat ≤ 10000 ∧ 10000 ≤ (s.pod 31).inForce.fsImax.toNat) ∧
    (let s : State := { awake with rc := { queue := [⟨31, 1, 0, 0, 0⟩] } }
     s.rc.queue = ⟨31, 1, 0, 0, 0⟩ :: [] ∧ (s.pod 31).prm.ev = false ∧ mayWrite s (.keeper 0) = true ∧ (31 : Fin 32).val < nPods s) ∧
    busRuns State.reset = false := by decide

/-- Lane 1 runs instance 1, whose next step executes the charm word `w`. -/
def withCharm (w : Nat) (c : Inst) (r : Run) : State :=
  let s := putLE .iram awake (0x20000 + 4 * r.pc) w 4
  setLaneRun (s.setChm r.act.inst c) 1 (some r)

/-- An activation of instance 1, cause 4, at pc 128, that has a record of six words. -/
def someRun : Run :=
  { act := { inst := 1, cause := 4, e := 7 }, pc := 128, pentry := 200, maxSteps := 8,
    buf := some ([0x1805, 1, 0, 0, 0, 0x7FFF, 0x12].map (fun v => ⟨v, false⟩)) }

theorem witness_CharmDataInstructions :
    (charmAt (withCharm 0x0CA60000 {} someRun) 1 someRun 0x0CA60000 ∧ 0x0CA60000 / 2 ^ 26 % 64 = 0x03) ∧
    (charmAt (withCharm 0x54000000 {} someRun) 1 someRun 0x54000000 ∧ 0x54000000 / 2 ^ 26 % 64 = 0x15) ∧
    (charmAt (withCharm 0x48000000 {} someRun) 1 someRun 0x48000000 ∧ 0x48000000 / 2 ^ 26 % 64 = 0x12 ∧
      bitAt ((withCharm 0x48000000 {} someRun).chm 1).p 0 = false) ∧
    (charmAt (withCharm 0x5C000000 {} someRun) 1 someRun 0x5C000000 ∧ 0x5C000000 / 2 ^ 26 % 64 = 0x17) := by
  refine ⟨⟨⟨by decide, by decide, by decide, by decide, by decide, by decide, by decide⟩, by decide⟩,
    ⟨⟨by decide, by decide, by decide, by decide, by decide, by decide, by decide⟩, by decide⟩,
    ⟨⟨by decide, by decide, by decide, by decide, by decide, by decide, by decide⟩, by decide, by decide⟩,
    ⟨⟨by decide, by decide, by decide, by decide, by decide, by decide, by decide⟩, by decide⟩⟩

theorem witness_CharmBranchesAndPoison :
    (charmAt (withCharm 0x80000090 {} someRun) 1 someRun 0x80000090 ∧ 0x80000090 / 2 ^ 26 % 64 = 0x20) ∧
    (let s := withCharm 0x84000090 { p := 1 } someRun
     charmAt s 1 someRun 0x84000090 ∧ 0x84000090 / 2 ^ 26 % 64 = 0x21 ∧ bitAt (s.chm 1).p 0 = true ∧ someRun.hit = false) ∧
    (let r : Run := { someRun with hit := true }
     let s := withCharm 0xC4000000 { p := 1 } r
     charmAt s 1 r 0xC4000000 ∧ 0xC4000000 / 2 ^ 26 % 64 = 0x31 ∧ bitAt (s.chm 1).p 0 = true ∧ r.hit = true ∧ (s.chm 1).closing = false) := by
  refine ⟨⟨⟨by decide, by decide, by decide, by decide, by decide, by decide, by decide⟩, by decide⟩,
    ⟨⟨by decide, by decide, by decide, by decide, by decide, by decide, by decide⟩, by decide, by decide, by decide⟩,
    ⟨⟨by decide, by decide, by decide, by decide, by decide, by decide, by decide⟩, by decide, by decide, by decide, by decide⟩⟩

theorem witness_CharmActingInstructions :
    (charmAt (withCharm 0xC0000005 {} someRun) 1 someRun 0xC0000005 ∧ 0xC0000005 / 2 ^ 26 % 64 = 0x30) ∧
    (let s := withCharm 0xEC020000 { v := [(0, 7), (1, 9)] } someRun
     charmAt s 1 someRun 0xEC020000 ∧ 0xEC020000 / 2 ^ 26 % 64 = 0x3B ∧ (tget 0 (s.chm 1).v 0).toNat < nLoops s ∧ bitAt (s.chm 1).p 1 = false) ∧
    (let s := withCharm 0xE4020000 { v := [(0, 31)], p := 2 } someRun
     charmAt s 1 someRun 0xE4020000 ∧ 0xE4020000 / 2 ^ 26 % 64 = 0x39 ∧ (tget 0 (s.chm 1).v 0).toNat < nLines s ∧
     bitAt (s.chm 1).p 0 = false ∧ bitAt (s.chm 1).p 1 = true ∧ someRun.hit = false) := by
  refine ⟨⟨⟨by decide, by decide, by decide, by decide, by decide, by decide, by decide⟩, by decide⟩,
    ⟨⟨by decide, by decide, by decide, by decide, by decide, by decide, by decide⟩, by decide, by decide, by decide⟩,
    ⟨⟨by decide, by decide, by decide, by decide, by decide, by decide, by decide⟩, by decide, by decide, by decide, by decide, by decide⟩⟩

theorem witness_CharmEngineFetchesAndSchedules :
    (let s := withStream 1
     let s : State := { s with ss := { s.ss with fetches := [⟨7, 0, 6, 0⟩] },
                               ce := { run := true, srcs := [(31, 0x4007)], insts := [(0, { en := true, sub01 := 0x009F })] } }
     let s := putLE .iram s 0x20004 0x8000 4
     busRuns s = true ∧ s.ss.fetches = ⟨7, 0, 6, 0⟩ :: [] ∧ (s.strm 7).armed = true ∧ (tget 0 s.ce.srcs 31).toNat / 2 ^ 14 = 1 ∧
     (tget 0 s.ce.srcs 31).toNat % 256 = 7 ∧ subOf (s.chm 0) 0 = (true, 31) ∧ dirPois s 0 = false ∧ dirValid s 0 = true) ∧
    (let s : State := { awake with ce := { run := true, expired := [(1, true, 0)], insts := [(1, { en := true })] } }
     let s := putLE .iram s 0x20004 0x8000 4
     busRuns s = true ∧ s.ce.expired = (1, true, 0) :: [] ∧ (s.chm 1).en = true ∧ dirValid s 0 = true) ∧
    (let a : Act := { inst := 1, cause := 0, e := 0, deadline := some 512 }
     let s : State := { awake with ce := { run := true, periodic := [a] } }
     let s := putLE .iram s 0x20004 0x8000 4
     busRuns s = true ∧ s.pwr.entering = false ∧ laneRun s 1 = none ∧ s.ce.periodic.filter (fun a => a.inst.val % 2 == 1) = [a] ∧
     dirPois s 0 = false ∧ dirValid s 0 = true) ∧
    (let r : Run := { someRun with steps := 8 }
     let s := setLaneRun awake 0 (some r)
     busRuns s = true ∧ laneRun s 0 = some r ∧ r.maxSteps ≤ r.steps) := by
  refine ⟨by decide, by decide, by decide, by decide⟩

theorem witness_CharmActivationsEnd :
    (charmAt (withCharm 0 {} someRun) 1 someRun 0 ∧ 0 / 2 ^ 26 % 64 = 0) ∧
    (charmAt (withCharm 0xFC000000 {} someRun) 1 someRun 0xFC000000 ∧ knownOp (0xFC000000 / 2 ^ 26 % 64) = false) := by
  refine ⟨⟨⟨by decide, by decide, by decide, by decide, by decide, by decide, by decide⟩, by decide⟩,
    ⟨⟨by decide, by decide, by decide, by decide, by decide, by decide, by decide⟩, by decide⟩⟩

theorem witness_CharmEngineRegisters :
    (mayWrite awake (.keeper 1) = true ∧ 8 * (3 : Fin 4).val < nPods awake ∧ ¬ (awake.ce.lease.held = true)) ∧
    (let s : State := { awake with ce := { lease := { held := true, owner := 1 }, insts := [(0, { en := true })] } }
     mayWrite s (.keeper 1) = true ∧ s.ce.lease.held = true ∧ s.ce.lease.owner.val = reqKeeper (.keeper 1) ∧ (s.chm 0).en = true) ∧
    (let s : State := { awake with variant := .thr6404 }
     mayWrite s (.keeper 1) = true ∧ nPods s ≤ 8 * (1 : Fin 4).val) := by decide

theorem witness_PortsReceiveFrames :
    (let s := awake.setPort 15 { en := true }
     busRuns s = true ∧ (15 : Fin 16).val < nPorts s ∧ (s.port 15).en = true ∧ ¬ ((s.port 15).echoSupp = true ∧ (s.port 15).de = true) ∧
     (s.port 15).frame = none ∧ (s.port 15).done.length < 2 ∧ (s.port 15).breakWait = false) ∧
    (let f : Frame := { e := 0, tag := 1 }
     let s := awake.setPort 0 { en := true, gap := 1, frame := some f, len := 1 }
     (s.port 0).frame = some f ∧ isBreak (s.port 0) 0x0A false false = false ∧ isBreak (s.port 0) 0 false true = true ∧ (s.port 0).gap ≠ 0 ∧
     (if (s.port 0).len = 0 then 1 else min 512 (s.port 0).len.toNat) ≤ f.bytes.length + 1 ∧ (0x0A : Byte) = (s.port 0).endByte) ∧
    (let s := awake.setPort 3 { en := true, txFifo := [1, 2] }
     (s.port 3).txFifo = 1 :: [2] ∧ mayWrite s (.keeper 0) = true ∧ s.integ.safe = false) ∧
    busRuns State.reset = false := by decide

/-- A tick with 4,000 µA in every loop. -/
def tickIn4 : TickIn := ⟨List.replicate 8 4000, 9000, 200⟩

theorem witness_OutputsFollowTheirCommands :
    (mayWrite awake (.keeper 0) = true ∧ awake.integ.safe = false ∧ 16 * (1 : Fin 2).val < nLines awake ∧ (15 : Fin 16).val < nVouts awake ∧
      (7 : Fin 8).val < nLoops awake ∧ feRuns awake = true ∧ awake.pwr.unlockAt = none ∧ tickInOk tickIn4 = true ∧ awake.rst.porHeld = false) ∧
    (let s : State := { awake with integ := { safe := true } }
     mayWrite s (.keeper 0) = true ∧ s.integ.safe = true) ∧
    (let s : State := { awake with io := { ilRun := [(31, 32)] } }
     feRuns s = true ∧ (31 : Fin 32).val < nLines s ∧ tget 0 s.io.ilRun 31 = 32) ∧
    (let s := awake.setLout 7 { shorts := 11 }; feRuns s = true ∧ (s.lout 7).shorts = 11 ∧ (s.lout 7).compliance = false) ∧
    feRuns State.reset = false ∧ tickInOk ⟨[], 0, 0⟩ = false := by decide

theorem witness_LinkAnswersCarryWhatTheHubHolds :
    (let s := { withStream 1 with ss := { (withStream 1).ss with streams := [(7, { armed := true, kind := 1, rlen := 2, head := 9 })] } }
     (s.strm 7).armed = true ∧ 4 < strmWrap (s.strm 7) ∧ posDiff (strmWrap (s.strm 7)) 4 (s.strm 7).tail ≤ strmLevel (s.strm 7) ∧
     strmWrap (s.strm 7) ≤ beNat [0xFF, 0xFF, 0xFF, 0xFF] + 1 ∧ byteAt [7, 0, 0, 0, 4, 108] 0 = 7 ∧ byteAt [7, 0, 0, 0, 4, 108] 5 = 108) ∧
    (([15, 0x07, 0xFF, 1] : List Byte).length = 4 ∧ byteAt [15, 0x07, 0xFF, 1] 0 ≤ 15 ∧ beNat [0x07, 0xFF] ≤ 2047) ∧
    (1 ≤ byteAt [1, 15, 1] 2 ∧ byteAt [1, 15, 1] 1 + byteAt [1, 15, 1] 2 ≤ nVouts awake) ∧
    (1 ≤ byteAt [31, 1] 1 ∧ byteAt [31, 1] 0 + byteAt [31, 1] 1 ≤ nPods awake) := by decide

theorem witness_ChainRequestsAreAnswered :
    (let h : BcHdr := ⟨0, 0x40, 7⟩
     linksAnswer awake = true ∧ h.src ≠ 0xFF ∧ h.dest ≠ 0xFF ∧ h.dest.toNat = awake.bc.addr.toNat ∧ bcWindow awake h.src = [] ∧
     awake.rst.loaded = true ∧ awake.integ.safe = false ∧ awake.integ.hallmark ≠ 3 ∧ awake.pwr.st ≠ .sleep ∧ awake.bc.mail = none ∧
     unknownType 0x7F = true ∧ unknownType 0x80 = true) ∧
    (let s : State := { awake with integ := { safe := true } }
     linksAnswer s = true ∧ ¬ ((s.rst.loaded = true ∧ s.integ.safe = false ∧ s.integ.hallmark ≠ 3) ∨ 3 = 1 ∨ 3 = 2 ∨ 3 = 0x0A ∨ 3 = 0x0E)) ∧
    (let s : State := { awake with bc := { mail := some ⟨0x40, 1, true, true⟩ } }; linksAnswer s = true ∧ s.bc.mail ≠ none) ∧
    linksAnswer State.reset = false := by decide

theorem witness_ChainLinkRepeatsSendsAndMails :
    (let h : BcHdr := ⟨0, 0x40, 7⟩
     let c := crc16 (frameBody 0 0x40 7 1 [])
     let s : State := { awake with bc := { windows := [⟨0x40, [⟨7, c, 0x81, [2, 0, 0, 0]⟩]⟩] } }
     linksAnswer s = true ∧ h.src ≠ 0xFF ∧ h.dest ≠ 0xFF ∧ h.dest.toNat = s.bc.addr.toNat ∧
     (bcWindow s h.src).find? (fun x => x.seq == h.seq) = some ⟨7, c, 0x81, [2, 0, 0, 0]⟩) ∧
    (let r : BcReply := { dest := 0x40, seq := 7, type := 0x81, payload := [2] }
     let s : State := { awake with now := 196608, bc := { reply := some r, notice := some r, rateDue := some 0,
                                                          mail := some ⟨0x40, 7, true, true⟩ } }
     linksAnswer s = true ∧ s.bc.reply = some r ∧ s.bc.notice = some r ∧ s.bc.rateDue = some 0 ∧ 0 + 196608 ≤ s.now ∧
     s.bc.mail = some ⟨0x40, 7, true, true⟩ ∧ s.bc.mailUntil ≤ s.now ∧ mayWrite s (.keeper 0) = true) ∧
    linksAnswer State.reset = false := by decide

theorem witness_TwoWireReadsAreAnswered :
    (linksAnswer awake = true ∧ awake.pwr.st ≠ .sleep ∧ awake.tw.stopWait = false ∧ awake.rst.loaded = true ∧ awake.integ.safe = false ∧
      awake.integ.hallmark ≠ 3 ∧ (∀ e ∈ awake.tw.window, e.tag ≠ 5) ∧ twCmds.any (fun x => x == 0x21) = true ∧
      twCmds.any (fun x => x == 0x0C) = false) ∧
    (let e : TagEntry := { tag := 255, cmd := 0x02, crc := crc16 [0x02], res := [2, 0] }
     let s : State := { awake with tw := { window := [e] } }
     linksAnswer s = true ∧ s.tw.window.find? (fun x => x.tag == 255) = some e ∧ e.res = 2 :: [0]) ∧
    (let s : State := { awake with integ := { safe := true } }; linksAnswer s = true ∧ s.integ.safe = true) ∧
    linksAnswer State.reset = false := by decide

theorem witness_TwoWireWritesAlertAndErrors :
    (linksAnswer awake = true ∧ awake.pwr.st ≠ .sleep ∧ awake.tw.stopWait = false ∧ awake.tw.pecReq = false ∧ awake.tw.mail = none ∧
      awake.rst.loaded = true ∧ awake.integ.safe = false ∧ awake.integ.hallmark ≠ 3 ∧ (∀ e ∈ awake.tw.window, e.tag ≠ 5) ∧
      ([2, 5, 7] : List Byte).head? = some 2 ∧ ([2, 5, 7] : List Byte).length = (2 : Byte).toNat + 1 ∧
      ([5, 0xC3, 0x3C] : List Byte).drop 1 = [0xC3, 0x3C] ∧ protoOk (.unknownCmd 0x0C) = true ∧ protoOk (.unknownCmd 1) = false) ∧
    (let s : State := { awake with tw := { alert := true, resetSince := true, alertMask := 0xFFFF, mail := some 5,
                                           window := [{ tag := 5, cmd := 0x09, crc := crc16 [0x09, 7], res := [4] }] } }
     linksAnswer s = true ∧ s.tw.alert = true ∧ BitVec.ofNat 16 (twNotice s) &&& s.tw.alertMask ≠ 0 ∧ mayWrite s (.keeper 0) = true ∧
     s.tw.mail = some 5 ∧ (s.tw.window.find? (fun y => y.tag == 5)).isSome = true) ∧
    linksAnswer State.reset = false := by decide

theorem witness_EepromRequestsAreCheckedAndServed :
    (let i : Img := { lease := { held := true, owner := 1 }, reqAddr := 0x60000, reqLen := 4 }
     let s : State := { awake with img := i }
     keeperActs s 1 = true ∧ (drainAll s 1).img = i ∧ i.reqState ≠ 1) ∧
    (let s : State := { awake with img := { reqState := 1, reqLen := 4 } }
     s.pwr.st ≠ .sleep ∧ s.rst.porHeld = false ∧ s.ss.refetches = [] ∧ s.img.stores = [] ∧ s.img.reqState = 1 ∧ s.img.readTries = 0) ∧
    (let s : State := { awake with now := 98304, img := { reqState := 1, reqLen := 4, readTries := 3, readAt := 98304 } }
     s.img.readTries ≠ 0 ∧ s.img.readAt ≤ s.now ∧ 3 ≤ s.img.readTries) ∧
    (let y : EepStore := { src := .firmware, addr := 0x60000, data := [1, 2] }
     let s : State := { awake with now := 98304, img := { stores := [y] } }
     let p : State := { s with img := { stores := [{ y with polling := true }] } }
     s.img.stores = y :: [] ∧ y.polling = false ∧ p.img.stores = { y with polling := true } :: [] ∧ s.pwr.st ≠ .sleep) := by decide

theorem witness_StartUpLoadsTheNewestGoodImage :
    (let m : StartIn := { bist := .pass, bistCycles := 0, readA := none, readB := none, lostCycles := 0, fused := [4] }
     startInOk m = true ∧ startInOk { m with bistCycles := 2359297 } = false ∧ startInOk { m with bist := .imageRam 8 } = true ∧
     startInOk { m with bist := .workingRam wramBase } = true ∧ startInOk { m with bist := .chain } = true) ∧
    (State.reset.rst.startUpDue = true ∧ State.reset.rst.pending = false ∧ State.reset.rst.heldByNrst = false ∧
      State.reset.rst.porHeld = false ∧ State.reset.rst.cold = true ∧ State.reset.integ.fuse3 = (false, false)) ∧
    (let s : State := { integ := { fuse3 := (true, false) } }
     (s.integ.fuse3.1 || s.integ.fuse3.2) = true ∧ s.rst.startUpDue = true) ∧
    awake.rst.startUpDue = false := by decide

theorem witness_ClocksAreLostAndRegained :
    (awake.pwr.pllLock = true ∧ awake.pwr.st ≠ .sleep ∧ awake.rst.porHeld = false ∧ awake.pwr.unlockAt = none) ∧
    (let s : State := { awake with now := 98304, pwr := { unlockAt := some 0 } }
     s.pwr.unlockAt = some 0 ∧ 0 + 98304 ≤ s.now ∧ s.pwr.pllLock = false) ∧
    (let s : State := { awake with now := 98303, pwr := { unlockAt := some 0 } }
     s.pwr.unlockAt = some 0 ∧ s.now < 0 + 98304) ∧
    (let s : State := { rst := { porHeld := true } }; s.rst.porHeld = true) := by decide

theorem witness_PowerFailWarningFlushes :
    (let s : State := { awake with pwr := { pllLock := true, pfwThr := 3000 }, integ := { memSlice := some 16, dpSlice := some 0 } }
     s.pwr.pfwThr ≠ 0 ∧ s.pwr.pfwLive = false ∧ s.rst.porHeld = false ∧ s.pwr.st ≠ .sleep ∧ s.integ.memSlice = some 16 ∧
     s.integ.dpSlice ≠ none) ∧
    (let s : State := { awake with pwr := { pfwThr := 3000, st := .sleep } }
     s.pwr.pfwThr ≠ 0 ∧ s.pwr.pfwLive = false ∧ s.rst.porHeld = false ∧ s.pwr.st = .sleep) ∧
    (let r : Rec := { stream := 7, e := 5, words := [0x1007, 2, 3, 4] }
     let s : State := { withStream 1 with pwr := { pllLock := true, pfwLive := true, flushing := true, port11 := true } }
     let u : State := { s with ss := { s.ss with ready := [r] } }
     u.pwr.flushing = true ∧ busRuns u = true ∧ u.pwr.pfwLive = true ∧ u.ss.ready = [r] ∧ r.gaps = [] ∧ (u.strm r.stream).armed = true ∧ (u.strm r.stream).gaps = [] ∧ 1 ≤ r.words.length ∧
     r.words.length ≤ 2048) ∧
    awake.pwr.pfwLive = false ∧ awake.pwr.flushing = false := by decide

theorem witness_PowerStatesAreEnteredAndLeft :
    (keeperActs awake 1 = true ∧ (drainAll awake 1).pwr.req ≠ 2) ∧
    (let s : State := { awake with now := 983040, pwr := { pllLock := true, req := 1 } }
     busRuns s = true ∧ s.pwr.req ≠ 0 ∧ s.pwr.st = .run ∧ s.pwr.entering = false ∧ (s.keeper 0).run = true ∧ (s.keeper 0).wfi = false ∧
     s.pwr.reqAt + 98304 * max 1 s.pwr.entryTmo.toNat ≤ s.now) ∧
    (let s : State := { awake with keepers := [], pwr := { pllLock := true, req := 1 } }
     busRuns s = true ∧ s.pwr.req = 1 ∧ s.pwr.st = .run ∧ ∀ k, k < 4 → (s.keeper k).run = false) ∧
    (let s : State := { awake with pwr := { pllLock := true, req := 2, entering := true } }
     busRuns s = true ∧ s.pwr.entering = true ∧ s.pwr.st = .run ∧ s.rst.pending = false) ∧
    (let s : State := { awake with integ := { lkPresent := true }, pwr := { st := .sleep, wake := some (1, 3), retCap := 0 } }
     s.pwr.wake = some (1, 3) ∧ s.pwr.st = .sleep ∧ s.rst.pending = false ∧ s.integ.lkPresent = true ∧ bitAt s.pwr.retCap 0 = false) ∧
    awake.pwr.wake = none := by decide

theorem witness_ResetsOfTheWholeHub :
    (awake.rst.porHeld = false ∧ awake.integ.safe = false ∧ awake.rst.pending = false ∧ awake.bc.resetDue = false ∧
      awake.integ.hmTarget = none) ∧
    (let s : State := { awake with bc := { resetDue := true }, integ := { hmTarget := some 2, hallmark := 1 } }
     s.bc.resetDue = true ∧ s.integ.hmTarget = some 2) ∧
    (let x : EepStore := { src := .firmware, addr := 0x60000, data := [1, 2] }
     let s : State := { awake with rst := { pending := true }, img := { stores := [x] }, integ := { hallmark := 3 } }
     s.rst.pending = true ∧ s.rst.porHeld = false ∧ s.integ.safe = false ∧ s.img.stores = [x] ∧ x.polling = false ∧
     tabWf {} s.ss.streams = true ∧ s.integ.hallmark = 3 ∧ s.integ.memSlice = none ∧ s.pwr.st ≠ .sleep ∧ s.bc.mail = none ∧ s.tw.mail = none) ∧
    (let s : State := { rst := { porHeld := true }, integ := { safe := true } }
     s.rst.porHeld = true ∧ s.integ.safe = true) := by decide

theorem witness_SlicesTestAndRowsAreRepaired :
    (let s : State := { awake with integ := { memEn := true } }
     busRuns s = true ∧ s.integ.memEn = true ∧ s.integ.memSlice = none ∧ s.pwr.pfwLive = false ∧ s.rst.pending = false ∧
     (s.page 16).st = .free ∧ 16 < nPages s) ∧
    (let s : State := { awake with integ := { memEn := true, memAny := true, memPage := 8191 } }
     s.integ.memPage.toNat + 1 = nPages s ∧ (s.page 16).st = .free) ∧
    (let s := { awake with integ := { memSlice := some 16 } }.setPage 16 ⟨.borrowed, 0⟩
     busRuns s = true ∧ s.integ.memSlice = some 16 ∧ bitAt s.arb.block 10 = false ∧ tget 64 s.integ.sparesFused 0 ≠ 0) ∧
    (mayWrite awake (.keeper 0) = true ∧ (awake.page 16).st = .free ∧ ¬ (awake.page 0).st = .free ∧
      (4 : Word).toNat % 2048 / 4 * nBanks awake + (4 : Word).toNat / 4096 = 16) ∧
    (let s : State := { awake with fe := { pairEn := 4 }, integ := { dpWin := true } }
     busRuns s = true ∧ s.integ.dpWin = true ∧ s.integ.dpSlice = none ∧ s.integ.dpStart = none ∧ bitAt s.fe.pairEn 2 = true ∧
     bitAt s.integ.dpMask 2 = true ∧ bitAt s.dc.busy 2 = false) ∧
    (let s : State := { awake with integ := { dpSlice := some 128 } }; s.integ.dpSlice = some 128) := by decide

theorem witness_LocketAndHallmarkAreKeptByTheRules :
    (keeperActs awake 0 = true ∧ keeperActs awake 1 = true ∧ (drainAll awake 1).integ.hmTarget = none) ∧
    (let s : State := { awake with busM := 64999, integ := { hmKey := [(1, some 0)] } }
     keeperActs s 1 = true ∧ (drainAll s 1).integ.hmTarget = none ∧ tget none (drainAll s 1).integ.hmKey 1 = some 0 ∧ s.cyc ≤ 0 + 64 ∧
     (drainAll s 1).integ.hallmark.toNat < 1) ∧
    (let s : State := { awake with integ := { hmTarget := some 1 } }
     keeperActs s 1 = true ∧ (drainAll s 1).integ.hmTarget ≠ none) ∧
    (let s : State := { awake with now := 58982400000, integ := { hmOpen := true } }
     s.integ.hmOpen = true ∧ s.integ.hmOpenAt + 98304000 * max 1 s.integ.hmTmo.toNat ≤ s.now) := by decide

/-! ## More witnesses: the clauses by place, by cycle and by unit -/

/-- `awake` with a parcel at keeper 0's pc. -/
def withParcel (c : Nat) : State := putLE .iram awake 0 c 2

theorem witness_CompressedParcels :
    (let pc := ((withParcel 0x4505).keeper 0).pc.toNat
     pc % 2 = 0 ∧ pc + 2 ≤ iramSize ∧ badLE .iram (withParcel 0x4505) pc 2 = false ∧ getLE .iram (withParcel 0x4505) pc 2 = 0x4505) ∧
    getLE .iram (withParcel 0) 0 2 = 0 ∧
    (let s := putLE .wram (awake.setKeeper 0 { pc := 0x1003FFFC }) 0x3FFFC 0x00B50533 4
     let pc := (s.keeper 0).pc.toNat
     wramBase ≤ pc ∧ pc + 4 ≤ wramBase + wramSize ∧ pc % 2 = 0 ∧ badLE .wram s 0x3FFFC 4 = false ∧ getLE .wram s 0x3FFFC 4 = 0x00B50533 ∧
     (s.keeper 0).stale = []) := by decide

/-- C.LI x10, 1 is ADDI x10, x0, 1; C.SUB x8, x9 is SUB x8, x8, x9; C.JR x1 is JALR x0, 0(x1) (RV32C). -/
theorem test_compressed : fetchInstr (withParcel 0x4505) 0 = .word (some 0x00100513) 2 (withParcel 0x4505) ∧
    fetchInstr (withParcel 0x8C05) 0 = .word (some 0x40940433) 2 (withParcel 0x8C05) ∧
    fetchInstr (withParcel 0x8082) 0 = .word (some 0x00008067) 2 (withParcel 0x8082) := ⟨rfl, rfl, rfl⟩

theorem witness_KeeperImmediatesAndCsr :
    (fetchInstr (withCode 0x00150513) 0 = .word (some 0x00150513) 4 (withCode 0x00150513) ∧ fld 0x00150513 0 7 = 0x13 ∧ fld 0x00150513 12 3 = 0) ∧
    (fetchInstr (withCode 0x40155513) 0 = .word (some 0x40155513) 4 (withCode 0x40155513) ∧ fld 0x40155513 0 7 = 0x13 ∧
      fld 0x40155513 12 3 = 5 ∧ fld 0x40155513 25 7 = 0x20) ∧
    (fetchInstr (withCode 0x80000537) 0 = .word (some 0x80000537) 4 (withCode 0x80000537) ∧ fld 0x80000537 0 7 = 0x37 ∧
      fld 0x80000517 0 7 = 0x17) ∧
    (fetchInstr (withCode 0x34059573) 0 = .word (some 0x34059573) 4 (withCode 0x34059573) ∧ fld 0x34059573 0 7 = 0x73 ∧
      fld 0x34059573 12 3 % 4 = 1 ∧ fld 0x34059573 20 12 = 0x340) ∧
    (fetchInstr (withCode 0x30102573) 0 = .word (some 0x30102573) 4 (withCode 0x30102573) ∧ fld 0x30102573 12 3 % 4 = 2 ∧
      fld 0x30102573 15 5 = 0 ∧ fld 0x30102573 20 12 = 0x301) ∧
    (fetchInstr (withCode 0x7C002573) 0 = .word (some 0x7C002573) 4 (withCode 0x7C002573) ∧ fld 0x7C002573 20 12 = 0x7C0) :=
  ⟨⟨rfl, by decide⟩, ⟨rfl, by decide⟩, ⟨rfl, by decide⟩, ⟨rfl, by decide⟩, ⟨rfl, by decide⟩, ⟨rfl, by decide⟩⟩

/-- CSRRW of mscratch writes it and reads misa by CSRRS without a write (08 R342). -/
theorem test_csr : (∃ t, exec (.keeperInstruction 0) (setX (withCode 0x34059573) 0 11 7) = .next t ∧ (t.keeper 0).mscratch = 7 ∧
      (t.keeper 0).pc = 4) ∧
    (∃ t, exec (.keeperInstruction 0) (withCode 0x30102573) = .next t ∧ xr t 0 10 = 0x40001104) := ⟨⟨_, rfl, by decide⟩, ⟨_, rfl, by decide⟩⟩

theorem witness_LoadsAndStoresByPlace :
    (let s := withCodeX 0x00052583 0
     keeperActs s 0 = true ∧ (0 : Nat) < iramSize ∧ badLE .iram s 0 4 = false) ∧
    (let s := withCodeX 0x00052583 0x10000000
     ((s.keeper 0).sbuf = [] ∧ ∀ i, i < 4 → badByte .wram s i = false)) ∧
    (let s := { withCodeX 0x00052583 0x20000000 with variant := .thr6412 }
     winBase + 4096 * nPages s < winBase + winSize ∧ bitAt s.arb.block 2 = false ∧ ∀ i, i < 2 → storePois s i = false) ∧
    (regValid 0x40001000 = true ∧ loadStalls (withCodeX 0x00051583 0x40001000) 0x40001000 = false ∧ regValid 0x50000000 = false ∧
      ¬ (0x50000000 < iramSize) ∧ wramBase + wramSize ≤ 0x50000000 ∧ winBase + winSize ≤ 0x50000000) ∧
    (let s : State := { awake with arb := { block := 4 } }; bitAt s.arb.block 2 = true) := by decide

/-- LB extends the sign of a buffered byte (08 R345); SH to the window stores two bytes (04 R206); a store to no place traps (01 R65). -/
theorem test_loads_and_stores :
    (∃ t, exec (.keeperInstruction 0) (let s := withCodeX 0x00050583 0x10000001
        s.setKeeper 0 { s.keeper 0 with sbuf := [⟨0, [1, 0x80]⟩] }) = .next t ∧ xr t 0 11 = 0xFFFFFF80) ∧
    (∃ t, exec (.keeperInstruction 0) (setX (withCodeX 0x00B51023 0x20000002) 0 11 0x12345) = .next t ∧ storeWord t 1 = 0x2345 ∧
      (t.keeper 0).pc = 4) ∧
    (∃ t, exec (.keeperInstruction 0) (withCodeX 0x00B52023 0x50000000) = .next t ∧ (t.keeper 0).mcause = 7 ∧
      (t.keeper 0).mtval = 0x50000000) := ⟨⟨_, rfl, by decide⟩, ⟨_, rfl, by decide⟩, ⟨_, rfl, by decide⟩⟩

theorem witness_RegisterAccesses :
    (let s := { awake with variant := .thr6404 }
     mayWrite s (.keeper 0) = true ∧ s.variant ≠ .thr6420 ∧ unitAbsent (reqWaits s (.keeper 0)) (regBlock 0x4000D180) (regOff 0x4000D180) = true ∧
     regValid 0x4000D180 = true) ∧
    (let s : State := { awake with integ := { safe := true } }
     mayWrite s (.keeper 0) = true ∧ 0x4000E000 ≤ (0x4000F000 : W32).toNat ∧ (0x4000F000 : W32).toNat < 0x40012000 ∧
     unitAbsent (reqWaits s (.keeper 0)) (regBlock 0x4000F000) (regOff 0x4000F000) = false) ∧
    ((3 : Fin 4).val < nKeepers awake ∧ keeperActs awake 1 = true) ∧
    ((awake.fwMark 7 2 0).fwAt = awake.cyc + 1 ∨ (awake.fwMark 7 2 0).fwAt = awake.cyc) ∧ fwKey 7 2 0 ≠ fwKey 7 4 0 := by decide

/-- A counter that firmware has written in this cycle keeps the value written; otherwise it counts (00 R23). -/
theorem test_write_prevails : bump (awake.fwMark 7 2 0) 7 2 (5 : Word) 1 0 = 5 ∧ bump awake 7 2 (5 : Word) 1 0 = 6 := by decide
/-- A bit that the hub has set in the cycle of the write stays 1 (00 R22). -/
theorem test_set_prevails : cleared (3 : Word) 1 0xFFFF = 2 := by decide

theorem witness_SafeKeepsRelease :
    let s : State := { awake with integ := { safe := true } }
    keeperActs s 0 = true ∧ (3 : Fin 4) ≠ 0 ∧ (3 : Fin 4).val < nKeepers s ∧ s.integ.safe = true := by decide

theorem witness_StalledClaimBeforeReset :
    (let s := (awake.setKeeper 1 { awake.keeper 1 with resetDue := true }).setBank 1 { stalled := some 1 }
     busRuns s = true ∧ s.rst.pending = false ∧ (s.keeper 1).resetDue = true ∧ (s.bank 1).stalled = some 1 ∧ claimStalls s 1 = false) ∧
    (let s := (awake.setKeeper 1 { awake.keeper 1 with resetDue := true }).setBank 1 { stalled := some 1, freezeAt := some 0 }
     (s.bank 1).stalled = some 1 ∧ claimStalls s 1 = true) := by decide

/-- A stalled claim that no longer waits is completed by the keeper's reset (08 R350): the stack is emptied after it. -/
theorem test_stalled_claim_completes :
    let s := (pending5.setKeeper 1 { pending5.keeper 1 with resetDue := true }).setBank 1 { stalled := some 1 }
    ∃ t, exec (.keeperAloneReset 1 0) s = .next t ∧ tget 0 t.rdata 1 = 0x105 ∧ bitAt t.kic.spend 5 = false ∧ (t.bank 1).stack = [] :=
  ⟨_, rfl, by decide⟩

theorem witness_WatchSenses :
    (let s := watching 69 .doze
     busRuns s = true ∧ s.pwr.st = .doze ∧ watchSenses s 15 = true ∧ watchSrc s 15 = 69 ∧ sharedLevel s 69 = false) ∧
    (let s := watching 65 .doze; watchSenses s 15 = true ∧ watchSrc s 15 = 65 + (0 : Fin 4).val) ∧
    (let s : State := { watching 65 .doze with pwr := { pllLock := true, st := .doze, wakeBalls := 1 } }
     watchSenses s 15 = true ∧ sharedLevel s 65 = true ∧ bitAt s.kic.wsin 65 = false) ∧
    (awake.pwr.entering = false ∧ awake.pwr.st ≠ .doze) := by decide

/-- A ball that goes high wakes from DOZE where a watch entry names its source (08 R377, 13 R549). -/
theorem test_watch_wakes :
    ∃ t, exec (.kicSourceInput (.shared 65) true) (watching 65 .doze) = .next t ∧ t.pwr.st = .run ∧ bitAt t.kic.watchHit 15 = true ∧
      bitAt t.kic.spend 65 = true := ⟨_, rfl, by decide⟩

theorem witness_ClaimStallEnd :
    (let s := pending5.setBank 1 { stalled := some 1 }
     (s.bank 1).stalled = some 1 ∧ busRuns s = true ∧ claimStalls s 1 = false) ∧
    (let s := pending5.setBank 1 { stalled := some 1, freezeAt := some 0 }; claimStalls s 1 = true) ∧ (pending5.bank 1).stalled = none := by
  decide

/-- Pair 0 as swap measurements find it: OK, with 100 µA. -/
def measured (x : PairFe) : State :=
  { (awake.setPfe 0 x) with fe := { awake.fe with run := true, running := true, pairEn := 1, nextSwap := 128 } }

theorem witness_MeasurementDecides :
    (let s := measured { st := .ok }
     feRuns s = true ∧ 0 < nPairs s ∧ (s.pfe 0).decide = none ∧ (s.fe.run = true ∧ bitAt s.fe.pairEn 0 = true) ∧ s.fe.clkFrom + 112 ≤ s.fe.nextSwap ∧
     s.fe.running = true) ∧
    (let s := measured { st := .opn }; (s.pfe 0).st = .opn ∧ nth 0 swapIn100.current 0 = 100) ∧
    (let s := measured { st := .off }; (s.pfe 0).st = .off) ∧ ¬ (awake.fe.run = true ∧ bitAt awake.fe.pairEn 0 = true) := by decide

/-- DEB of 0 acts as 1 (02 R110): the first measurement below 20 µA decides OPEN; FE_IEX shows it. -/
theorem test_deb_zero :
    let s := { measured { st := .ok } with fe := { (measured { st := .ok }).fe with deb := 0 } }
    ∃ t, exec (.swapInstant ⟨List.replicate 192 19, 5000, 0, 2500⟩) s = .next t ∧ (t.pfe 0).decide = some .opn ∧ (t.pfe 0).iex = 19 :=
  ⟨_, rfl, by decide⟩

theorem witness_SliceTakesAnOutput :
    let s : State := { awake with integ := { dpSlice := some 0, dpPair := 0 } }
    feRuns s = true ∧ 0 < nPairs s ∧ cwMode (s.pdc 0).filt.word = 2 ∧ sliceTakes s 0 256 = true ∧ sliceTakes awake 0 256 = false := by decide

theorem witness_AlignedChange :
    let c : Change := { word := 0x4001, start := 0 }
    let s := (awake.setPdc 0 { change := some c }).setPfe 0 { st := .ok }
    (s.pdc 0).change = some c ∧ c.running = false ∧ feRuns s = true ∧ (s.pfe 0).st ≠ .off ∧ cwMode c.word ≠ cwMode (s.pdc 0).filt.word ∧
      cwAlign c.word = true ∧ cwMode c.word < 6 ∧ cwMode (s.pdc 0).filt.word < 6 := by decide

theorem witness_HeldGoActsAtTheRestart :
    let s := awake.setPdc 191 { restartDue := some (128, 1), heldGo := some 2 }
    feRuns s = true ∧ (s.pdc 191).restartDue = some (128, 1) ∧ (s.pdc 191).heldGo = some 2 := by decide

theorem witness_CoarseArmingKeepsItsCheck :
    let s := (awake.setStrm 0 { checking := true, kind := 2, rlen := 1, slotsOver := true }).setPage 16 ⟨.allocated, 1⟩
    let s : State := { s with ss := { s.ss with ring := [(0, 16)] } }
    busRuns s = true ∧ (s.strm 0).checking = true ∧ armCheck s 0 = 5 := by decide

/-- A TAIL write short of the hub's move in this cycle is ignored; SS_PCOARSE past 1,362 slots is not stored (04 R180, R203). -/
theorem witness_PositionClauses :
    (let s := awake.setStrm 0 { rlen := 1, head := 9, tail := 5, movedAt := 1 }
     (s.strm 0).movedAt = s.cyc + 1 ∧ 3 < strmWrap (s.strm 0)) ∧
    (let s := awake.setStrm 0 { keptLevel := some 5 }; mayWrite s (.keeper 0) = true ∧ (s.strm 0).keptLevel = some 5) ∧
    (let s : State := { awake with ss := { streams := [(0, { armed := true, kind := 1, rlen := 2 })] } }
     ∃ e ∈ s.ss.streams, e.2.armed = true ∧ e.2.kind ≠ 5 ∧ e.2.rbase.toNat ≤ 1 ∧ 1 < e.2.rbase.toNat + e.2.rlen.toNat) := by decide

/-- A slice has borrowed page 16 in this cycle; keeper 1 holds the store's lease. -/
def lentNow : State :=
  { awake with integ := { memSlice := some 16 }, ss := { lease := { held := true, owner := 1 }, pages := [(16, ⟨.borrowed, 0⟩)] } }

theorem witness_AllocationBeforeTheSlice :
    let s := lentNow
    keeperActs s 1 = true ∧ s.integ.memSlice = some 16 ∧ s.integ.memSliceAt = s.cyc ∧ (s.page 16).st = .borrowed ∧ (s.page 17).st = .free ∧
      16 % nBanks s % 4 = 0 := by decide

/-- The allocation has the page; the slice goes on to another (04 R199). -/
theorem test_allocation_before_the_slice :
    ∃ t, exec (.ssAlloc 1 0x0007) lentNow = .next t ∧ (t.page 16) = ⟨.allocated, 7⟩ ∧ t.integ.memSlice = some 17 := ⟨_, rfl, by decide⟩

theorem witness_ScrubberInABorrowedPage :
    let s := awake.setPage 4 ⟨.borrowed, 0⟩
    let s : State := { s with ss := { s.ss with scrubPos := [(0, 2049)] } }
    groupIdles s 0 = true ∧ (s.page (4 * (2049 / 2048) + 0)).st = .borrowed ∧ ¬ 2049 % 2048 = 0 := by decide

/-- A word that reads poisoned after its refetch is reported and stays marked (04 R207). -/
theorem test_refetch_poisoned :
    let s : State := { awake with ss := { refetches := [3] } }
    ∃ t, exec (.imageRefetch .poisoned) s = .next t ∧ t.ss.flt = 0x20 ∧ t.ss.imgAddr = 12 ∧ badByte .iram t 12 = true ∧ t.ss.imgRep = 0 :=
  ⟨_, rfl, by decide⟩

theorem witness_RecordsWait :
    (let r : Rec := { stream := 7, e := 0, words := [0x4007, 0, 0, 0, 0, 0, 0, 0] }
     let s := { withStream 4 with ce := { wq := [r] } }
     let s : State := { s with ss := { s.ss with fetches := [⟨7, 0, 6, 0⟩] } }
     s.ss.fetches ≠ [] ∧ s.ce.wq = [r]) ∧
    (let r : Rec := { stream := 7, e := 0, words := [1], ord := 5 }
     let s := awake.setStrm 7 { armed := false, kind := 1, rlen := 2, lastOrd := some 5 }
     let s : State := { s with ss := { s.ss with ready := [r] } }
     s.ss.ready.find? (fun x => x.stream == 7) = some r ∧ (s.strm 7).armed = false ∧ (s.strm 7).lastOrd = some r.ord) := by decide

theorem witness_FallEndAndThenSteps :
    (let s := awake.setPod 31 { dues := [.fallEnd 40, .tip 3 4] }
     busRuns s = true ∧ (s.pod 31).dues = .fallEnd 40 :: [.tip 3 4]) ∧
    (let pd : Pod := { det := .blocked 0, lastCounted := some 0, now := 100000 }
     let s := withDue (.long 9) pd
     (s.pod 31).lastCounted = some 0 ∧ (s.pod 31).inForce.fsImax.toNat < (s.pod 31).now - 0) := by decide

/-- A fall's end is carried out before the tip that follows it (06 R274, R275). -/
theorem test_fall_end : ∃ t, exec (.tip 31) (awake.setPod 31 { dues := [.fallEnd 40, .tip 3 4], ffRun := 6, falling := true }) = .next t ∧
    t.rc.queue.map (fun v => (v.code, v.a, v.b)) = [(0x21, 6, 40), (0x22, 3, 4)] ∧ (t.pod 31).falling = false := ⟨_, rfl, by decide⟩

/-- A record of stream 7 is fetched while an activation of that stream's former record runs. -/
def fetching (late : Bool) (block : BitVec 11) : State :=
  let s := withStream 1
  let s : State := { s with ss := { s.ss with fetches := [⟨7, 0, 6, 256⟩] }, arb := { block := block },
                            ce := { run := true, srcs := [(31, 0x4007)], insts := [(0, { en := true, sub01 := 0x009F })],
                                    run0 := some { someRun with act := { inst := 0, cause := 0, e := 0, strm := some 7 }, late := late } } }
  putLE .iram s 0x20004 0x8000 4

theorem witness_RecordFetchClauses :
    ((fetching false 0).ss.fetches = ⟨7, 0, 6, 256⟩ :: [] ∧ busRuns (fetching false 0) = true ∧ ((fetching false 0).strm 7).armed = true ∧
      (tget 0 (fetching false 0).ce.srcs 31).toNat / 2 ^ 14 = 1 ∧ portBlocked (fetching false 0) 1 = false ∧
      ((fetching false 0).chm 0).en = true ∧ dirPois (fetching false 0) 0 = false ∧ dirValid (fetching false 0) 0 = true ∧
      tabWf {} (fetching false 0).ce.insts = true ∧ (fetching false 0).ce.periodic = []) ∧
    (portBlocked (fetching false 2) 1 = true) ∧
    (let s := withStream 1
     let s : State := { s with ss := { s.ss with fetches := [⟨8, 0, 6, 0⟩] } }
     (s.strm 8).armed = false) := by decide

/-- The activation that runs still is LATE; the new one has its instant and deadline (07 R302, R321, R327). -/
theorem test_fetch_marks_late : ∃ t, exec .recordFetch (fetching false 0) = .next t ∧ bitAt (t.chm 0).stat 0 = true ∧
    t.ce.periodic.map (fun a => (a.inst.val, a.cause, a.e, a.deadline)) = [(0, 0, 256, some 768)] := ⟨_, rfl, by decide⟩
/-- With port 1 blocked the source holds as many poisoned words (07 R301). -/
theorem test_fetch_blocked : ∃ t b, exec .recordFetch (fetching false 2) = .next t ∧ tget none t.ce.bufs 31 = some b ∧
    b.words.length = 6 ∧ b.words.all (·.poison) = true := ⟨_, _, rfl, rfl, by decide⟩

theorem witness_ActivationOfAPoisonedDirectory :
    let a : Act := { inst := 1, cause := 0, e := 0, deadline := some 512 }
    let s : State := { awake with ce := { run := true, periodic := [a] } }
    let s := markByte .iram s 0x20000
    busRuns s = true ∧ laneRun s 1 = none ∧ dirPois s 0 = true ∧ charmPois s 0 = true ∧ (∀ x ∈ s.ce.periodic, x.deadline.isSome = true) := by decide

theorem witness_CharmEngineConfiguration :
    (let s : State := { awake with ce := { lease := { held := true, owner := 1 } } }
     mayWrite s (.keeper 1) = true ∧ s.ce.lease.held = true ∧ s.ce.lease.owner.val = reqKeeper (.keeper 1) ∧ (s.chm 0).en = false) ∧
    (let s : State := { awake with integ := { safe := true } }; mayWrite s (.keeper 1) = true ∧ s.integ.safe = true) ∧
    (let s : State := { awake with ce := { lease := { held := true, owner := 1 }, insts := [(0, { en := true })],
                                           run1 := some { someRun with act := { inst := 0, cause := 4, e := 7 } } } }
     ∃ a, s.ce.run1 = some a ∧ a.act.inst.val = 0) := by
  refine ⟨by decide, by decide, ⟨_, rfl, by decide⟩⟩

theorem witness_PortClauses :
    (let s := awake.setPort 3 { en := true, done := [{ e := 0, tag := 1 }, { e := 0, tag := 1 }] }
     (s.port 3).frame = none ∧ 2 ≤ (s.port 3).done.length) ∧
    (let s := awake.setPort 3 { en := true, discardTrunc := true }; (s.port 3).discardTrunc = true ∧ isBreak (s.port 3) 0x41 false false = false) ∧
    (let s := awake.setPort 3 { en := true, discardOvr := some 4 }; (s.port 3).discardOvr = some 4) ∧
    (let s : State := { awake with io := { frameAt := 1, frameOrd := 96 } }; s.io.frameAt = s.cyc + 1) ∧ awake.io.frameAt ≠ awake.cyc + 1 := by decide

/-- The character 0x35 with even parity and two stop bits, low bit first (09 R402). -/
theorem test_character_bits :
    ∃ t, exec (.characterSent 3) (awake.setPort 3 { en := true, txFifo := [0x35], parity := 1, stop2 := true, bits7 := true }) = .next t ∧
      (t.port 3).txd = [false, true, false, true, false, true, true, false, false, true, true] := ⟨_, rfl, by decide⟩

theorem witness_OutputClauses :
    (let s : State := { awake with integ := { safe := true } }
     mayWrite s (.keeper 0) = true ∧ 16 * (1 : Fin 2).val < nLines s ∧ (15 : Fin 16).val < nVouts s ∧ (7 : Fin 8).val < nLoops s) ∧
    (let l : LoopOut := { compliance := true, dropped := true, cmd := 9000 }
     let s := awake.setLout 7 l
     (loopCarried (s.lout 7)).compliance = true ∧ (s.lout 7).shorts ≤ 11) ∧
    (let s := awake.setLout 7 { skip := 0, applied := 4000, shorts := 10 }
     (loopCarried (s.lout 7)).skip = 0 ∧ 3949 + 50 < (loopCarried (s.lout 7)).applied) ∧
    (awake.pwr.extest = false ∧ awake.rst.porHeld = false ∧ awake.rst.heldByNrst = false ∧ (∀ k ∈ awake.fw, k ≠ fwKey 2 0x016 0) ∧
      (awake.pfe 0).st = .off ∧ 0 < nPods awake ∧ (2450 : Nat) ≤ 2550) := by decide

/-- The signed code 0 is in force at output 2. -/
def vout2 : State := { awake with io := { voOut := [(2, 0)] } }
/-- VOUT stands at RATIO_REF × (code + 32,768) ÷ 65,536 of the signed code: half of it at code 0 (09 R408). -/
theorem test_vout_voltage : ballDrive vout2 2500 2000 (.vout 2) = .volts 1000 := by
  have h : vout2.rst.porHeld = false := by decide
  have p : ballPresent vout2 (.vout 2) = true := by decide
  have e : vout2.pwr.extest = false := by decide
  have c : voutMv (tget 0x8000 vout2.io.voOut 2) 2000 = 1000 := by
    rw [show tget (0x8000 : Word) vout2.io.voOut 2 = 0 from by decide, voutMv, show (0 : Word).toInt = 0 from by decide]; norm_num
  simp only [ballDrive, ballRuns, h, p, e, c]; rfl

/-- The PLL has lost its lock at 0. -/
def unlocked : State := { awake with pwr := { unlockAt := some 0 } }

theorem witness_RequestsWaitForRelock :
    (linksAnswer unlocked = true ∧ unlocked.pwr.unlockAt.isSome = true ∧ unlocked.rst.loaded = true ∧ unlocked.integ.safe = false ∧
      unlocked.integ.hallmark ≠ 3 ∧ unlocked.pwr.st ≠ .sleep ∧ unlocked.tw.stopWait = false ∧ unlocked.tw.pecReq = false) ∧
    ([2, 5, 7] : List Byte).length = (2 : Byte).toNat + 1 ∧ busRuns unlocked = false := by decide

/-- A stream request that comes while the lock is lost is answered after the relock (13 R538). -/
theorem test_request_waits :
    (∃ t, exec (.bcStreamStat ⟨0, 0x40, 7⟩ [3]) unlocked = .next t ∧ t.bc.held.length = 1 ∧ t.bc.reply = none) ∧
    (∃ t, exec .pllRelock { unlocked with bc := { held := [⟨⟨0, 0x40, 7⟩, 3, [3]⟩] } } = .next t ∧ t.bc.held = [] ∧ t.bc.reply.isSome = true) :=
  ⟨⟨_, rfl, by decide⟩, ⟨_, rfl, by decide⟩⟩

theorem witness_TwoWireClauses :
    (let s : State := { awake with tw := { pecReq := true } }
     linksAnswer s = true ∧ s.tw.stopWait = false ∧ s.tw.pecReq = true) ∧
    (([1, 2, 3, 4, 5, 0] : List Byte).length = 6 ∧ ([1, 2, 3, 4, 5, 0, 0] : List Byte).length = 7) ∧
    (protoOk (.shortArgs 0x08 [1]) = true ∧ protoOk (.extraByte 0x01 1) = true ∧ protoOk (.badCount 0x09 1) = true) ∧
    (let s : State := { awake with tw := { resp := [1, 2] } }; (1 : Nat) < s.tw.resp.length ∧ ¬ (2 : Nat) < s.tw.resp.length) := by decide

/-- Bytes past the check byte are 0xFF (11 R470); a wrong check byte with a byte after it counts as one (11 R476). -/
theorem test_two_wire_clauses :
    twReadByte { awake with tw := { resp := [1, 2] } } 2 = 0xFF ∧
    (∃ t, exec (.twStreamAck [7, 0, 0, 0, 0, 1] (some 9)) awake = .next t ∧ t.tw.pecErr = 1 ∧ t.tw.stat = 0x12 ∧ t.tw.lastErr = (5, 2, 6)) :=
  ⟨by decide, ⟨_, rfl, by decide⟩⟩

theorem witness_EepromClauses :
    (let y : EepStore := { src := .firmware, addr := 0x60000, data := [1, 2], polling := true, pollFrom := 0 }
     let s : State := { awake with now := 10000000, img := { stores := [y] } }
     s.img.stores = [y] ∧ y.polling = true ∧ ¬ 1000 * (s.now - y.pollFrom) ≤ 98304 * s.img.hdr.twr) ∧
    (let s : State := { awake with img := { reqState := 1, reqRd := true } }; mayWrite s (.keeper 0) = true ∧ s.img.reqState = 1) := by decide

theorem witness_ClockClauses :
    (let s : State := { awake with pwr := { pllLock := true, ssc := 1, sscAct := 0 } }
     busRuns s = true ∧ s.pwr.sscAct ≠ (if s.pwr.ssc = 3 then 2 else s.pwr.ssc)) ∧
    (let s : State := { awake with pwr := { pllLock := true, pfwThr := 3000 } }
     2999 < s.pwr.pfwThr.toNat ∧ ¬ 3000 < s.pwr.pfwThr.toNat ∧ 100 * 3059 < 102 * s.pwr.pfwThr.toNat ∧ s.pwr.pfwLive = false) ∧
    (let s : State := { awake with pwr := { pllLock := true, pfwThr := 3000, pfwLive := true } }
     s.pwr.pfwLive = true ∧ 102 * s.pwr.pfwThr.toNat ≤ 100 * 3060 ∧ 100 * 3059 < 102 * s.pwr.pfwThr.toNat) := by decide

/-- The depth written takes effect at the next top of the 32 µs modulation (13 R539): 3,145.728 cycles after the period began. -/
theorem test_depth_at_the_top :
    ∃ t, exec .sscDepthApply { awake with pwr := { pllLock := true, ssc := 1 } } = .next t ∧ t.now = 3146 ∧ t.pwr.sscAct = 1 := ⟨_, rfl, by decide⟩
/-- The warning ends 1 ms after HOLDUP was last below 1.02 × THR (13 R556). -/
theorem test_warning_ends :
    ∃ t, exec (.pfwEnd 3060) { awake with pwr := { pllLock := true, pfwThr := 3000, pfwLive := true, hupLow := 0 } } = .next t ∧ t.now = 98304 ∧
      t.pwr.pfwLive = false := ⟨_, rfl, by decide⟩

theorem witness_PowerClauses :
    (let s : State := { awake with keepers := [(0, { run := true, wfi := true, mtie := true, mtimecmp := 0 })], pwr := { pllLock := true, req := 1 } }
     (s.keeper 0).wfi = true ∧ mtip s 0 = true ∧ (s.keeper 0).mtie = true) ∧
    (let r : BcReply := { dest := 0x40, seq := 7, type := 0x81, payload := [2] }
     let s : State := { awake with bc := { lowRate := true, reply := some r }, pwr := { st := .sleep, wake := some (1, 3), pfwLive := true } }
     s.pwr.wake = some (1, 3) ∧ s.pwr.st = .sleep ∧ s.rst.pending = false ∧ s.bc.reply.isSome = true) ∧
    (let s : State := { awake with integ := { safe := true } }; keeperActs s 0 = true ∧ s.integ.safe = true) := by decide

theorem witness_SliceClauses :
    (let s : State := { awake with fe := { pairEn := 4 }, integ := { dpStart := some 2 } }
     swapInOk swapIn100 = true ∧ busRuns s = true ∧ s.integ.dpStart = some 2) ∧
    (let s := ({ awake with integ := { dpSlice := some 128, dpPair := 2 } } : State).setPdc 2 { heldGo := some 2 }
     busRuns s = true ∧ s.integ.dpSlice = some 128 ∧ (s.pdc 2).heldGo = some 2) ∧
    (let s : State := { awake with integ := { fused := [4] } }; 0 * 2048 + 4 ∈ s.integ.fused) := by decide

/-- A row that a fuse has replaced is not repaired again (14 R610). -/
theorem test_fused_row : ∃ t, exec (.bistRepair (.keeper 0) 4) { awake with integ := { fused := [4] } } = .next t ∧ t.integ.repairRes = 2 :=
  ⟨_, rfl, by decide⟩
/-- A slice that starts on an OFF pair is ended without a comparison (14 R589). -/
theorem test_slice_of_an_off_pair :
    ∃ t, exec (.swapInstant swapIn100) { awake with integ := { dpStart := some 2 } } = .next t ∧ t.integ.dpSlice = none ∧
      bitAt t.integ.flt 5 = true ∧ (t.pdc 2).restartReq = some 1 := ⟨_, rfl, by decide⟩
/-- While a POR holds the hub a loop sinks at most 10 µA and a hold line is high impedance (16 R648). -/
theorem test_balls_at_por : let s : State := { rst := { porHeld := true } }
    ballDrive s 2500 2000 (.loop 0) = .sinksAtMost 10 ∧ ballDrive s 2500 2000 (.il 0) = .hiZ := ⟨rfl, rfl⟩

/-! ## Ill-formed terms: one for each check, which the check refuses -/

theorem smoke_registerAddress : regOk 0x40016000 = false ∧ wellFormed (.registerWrite .chain 0x40016000 0) = false ∧
    exec (.registerWrite .chain 0x40016000 0) State.reset = .refused (.illFormed "REGISTER_WRITE") := ⟨by decide, by decide, rfl⟩
theorem smoke_lowPart : lowPart 0x40015006 = false ∧ wellFormed (.wideValueLowRead (.keeper 0) 0x40015006) = false := by decide
theorem smoke_highPart : highPart 0x40015004 = false ∧ wellFormed (.wideValueHighWrite (.keeper 0) 0x40015004 0) = false := by decide
theorem smoke_target : targetOk 0 = false ∧ wellFormed (.keeperRelease 1 0) = false ∧ wellFormed (.keeperResetCmd 1 0) = false := by decide
theorem smoke_swapIn : wellFormed (.swapInstant { current := [], vex := 0, ilHigh := 0, ratioRef := 0 }) = false ∧
    wellFormed (.swapInstant { current := List.replicate 192 0, vex := 65536, ilHigh := 0, ratioRef := 0 }) = false := by decide
theorem smoke_bits : wellFormed (.cicOutput []) = false := by decide
theorem smoke_armedBit : wellFormed (.armStream (.keeper 0) 0x1000) = false ∧ wellFormed (.disarmStream (.keeper 0) 0x9000) = false := by
  decide
theorem smoke_request : wellFormed (.arbiterRequest 0 0 ⟨16, 2040, 16, false, [], [], none⟩) = false ∧
    wellFormed (.arbiterRequest 0 0 ⟨16, 0, 0, false, [], [], none⟩) = false ∧ wellFormed (.arbiterRequest 0 0 ⟨16, 0, 1, true, [], [], none⟩) = false := by decide
theorem smoke_readout : wellFormed (.hintRerequest 0 8) = false := by decide
theorem smoke_tickIn : wellFormed (.tick { loop := [], holdup := 0, tj := 0 }) = false := by decide
theorem smoke_payload : wellFormed (.bcPoll ⟨0, 1, 0⟩ (List.replicate 241 0)) = false := by decide
theorem smoke_unknownType : wellFormed (.bcUnknownType ⟨0, 1, 0⟩ 0x05 []) = false := by decide
theorem smoke_protocol : wellFormed (.twProtocolError (.unknownCmd 0x20)) = false ∧ wellFormed (.twProtocolError (.badCount 0x09 2)) = false ∧
    wellFormed (.twProtocolError (.shortArgs 0x01 [])) = false := by decide
theorem smoke_startIn : wellFormed (.startUpSequence ⟨.pass, 2359297, none, none, 0, []⟩) = false := by decide
theorem smoke_debugIn : wellFormed (.debugResume 0 ⟨[(0x40000, 1)], none⟩) = false := by decide

/-! ## Values that the spec writes out, or that follow from its text by hand -/

/-- The check value of CRC-16 with these parameters (10 R433): 0x29B1 for the nine digits. -/
theorem test_crc16_check : crc16 [0x31, 0x32, 0x33, 0x34, 0x35, 0x36, 0x37, 0x38, 0x39] = 0x29B1 := by decide
/-- The frames of the worked example of chapter 10 (10 R436): a POLL request and its reply. -/
theorem test_crc16_frames : crc16 [0x07, 0x01, 0x0C, 0x31, 0x01, 0x00] = 0xE296 ∧
    crc16 [0x01, 0x07, 0x0C, 0x31, 0x81, 0x04, 0x10, 0x08, 0x00, 0x02] = 0x454E := by decide
/-- The check value of the SMBus packet error code: 0xF4. -/
theorem test_crc8_check : crc8 [0x31, 0x32, 0x33, 0x34, 0x35, 0x36, 0x37, 0x38, 0x39] = 0xF4 := by decide
/-- The check value of CRC-32 of IEEE 802.3 (12 R507): 0xCBF43926. -/
theorem test_crc32_check : crc32 [0x31, 0x32, 0x33, 0x34, 0x35, 0x36, 0x37, 0x38, 0x39] = 0xCBF43926 := by decide
/-- The capability words of the THR-6420 (01 R64). -/
theorem test_capability_words : [0, 2, 4, 6].map (fun off => unitRead State.reset (.keeper 0) 0 off) = [0x005A, 0x20C0, 0x0010, 0x000F] := by
  decide
/-- A working RAM store enters the buffer and a drain moves it (08 R345). -/
theorem test_store_buffer_drains :
    let s := awake.setKeeper 1 { awake.keeper 1 with sbuf := [⟨4, [0xAA, 0xBB]⟩] }
    ∃ t, exec (.storeBufferDrain 1) s = .next t ∧ getByte .wram t 5 = 0xBB ∧ (t.keeper 1).sbuf = [] := ⟨_, rfl, by decide⟩
/-- A semaphore is read once as free and then as held (08 R356). -/
theorem test_semaphore_taken :
    ∃ t, exec (.semRead 1 3) awake = .next t ∧ tget none t.sems 3 = some 1 := ⟨_, rfl, by decide⟩
/-- A second lease request of another keeper changes nothing (04 R196). -/
theorem test_lease_is_exclusive :
    let s : State := { awake with ss := { lease := { held := true, owner := 0 } } }
    ∃ t, exec (.ssLeaseAcquire 1) s = .next t ∧ t.ss.lease.owner = 0 := ⟨_, rfl, by decide⟩
/-- The queue gives its front command first; an empty queue passes one cycle. -/
theorem test_queue_order :
    (∃ t, step { awake with pending := [.pllUnlock, .pllRelock] } = .next t ∧ t.pending = [.pllRelock] ∧ t.pwr.pllLock = false) ∧
    (∃ t, step State.reset = .next t ∧ t.now = 1) := ⟨⟨_, rfl, by decide⟩, ⟨_, rfl, by decide⟩⟩
/-- A bistable fuse pair with one fuse blown reads as blown (14 R602, R603). -/
theorem test_torn_fuse_is_mended :
    (mendFuses { fuse2 := (true, false) }).fuse2 = (true, true) ∧ (mendFuses { fuse2 := (true, false) }).hallmark = 2 := by decide
/-- The LEVEL of a stream whose HEAD is one page beyond TAIL (04 R171). -/
theorem test_level : strmLevel { armed := true, rlen := 4, head := 2048, tail := 0 } = 2048 := by decide

end Sys2Proof.Tests
end

/-! Proof of the CIC's convolution (03 R115-R117).
Writing X for z^-1 and D for the generating series of the demodulated input, an integrator multiplies by 1/(1 - X) and a comb by
1 - X^64, read every 64 periods; their quotient is the 64-sum, so four of each give its fourth power exactly. The registers hold the
coefficients of these series modulo 2^28, and the last one is small enough to be read back from its 28 bits. -/
section
namespace Sys2Proof.Machine

open Finset

/-! ## The response (1 + X + ... + X^63)^4 -/

/-- The response of the CIC, (1 + X + ... + X^63)^4 with X for z^-1, over any coefficients. -/
noncomputable def cicResponse (R : Type) [CommSemiring R] : Polynomial R :=
  (∑ i ∈ range 64, Polynomial.X ^ i) ^ 4

/-- The series 1/(1 - X) = 1 + X + X^2 + ... of one integrator. -/
noncomputable def integratorSeries : PowerSeries ℤ := PowerSeries.mk 1

theorem integratorSeries_mul_one_sub : integratorSeries * (1 - PowerSeries.X) = 1 :=
  PowerSeries.mk_one_mul_one_sub_eq_one ℤ

/-- A comb after an integrator is the moving 64-sum; four of each are the response. -/
theorem combs_mul_integrators :
    (1 - PowerSeries.X ^ 64) ^ 4 * integratorSeries ^ 4 = (cicResponse ℤ : PowerSeries ℤ) := by
  have hsum : (1 - PowerSeries.X ^ 64) * integratorSeries = ∑ i ∈ range 64, PowerSeries.X ^ i := by
    rw [← geom_sum_mul_neg, mul_assoc, mul_comm (1 - _), integratorSeries_mul_one_sub, mul_one]
  rw [← mul_pow, hsum, cicResponse, Polynomial.coe_pow, ← Polynomial.coeToPowerSeries.ringHom_apply, map_sum]
  simp

/-- The model's taps are the coefficients of the response. -/
theorem cicTap_eq_coeff (k : Nat) : cicTap k = (cicResponse ℤ).coeff k := by
  have hexpand : (1 - PowerSeries.X ^ 64) ^ 4 * integratorSeries ^ 4 =
      integratorSeries ^ 4 - PowerSeries.C 4 * (PowerSeries.X ^ 64 * integratorSeries ^ 4) +
        PowerSeries.C 6 * (PowerSeries.X ^ 128 * integratorSeries ^ 4) -
        PowerSeries.C 4 * (PowerSeries.X ^ 192 * integratorSeries ^ 4) + PowerSeries.X ^ 256 * integratorSeries ^ 4 := by
    simp only [map_ofNat]
    ring
  have hcoeff (n : Nat) : PowerSeries.coeff n (integratorSeries ^ 4) = ((n + 3).choose 3 : ℤ) := by
    rw [integratorSeries, PowerSeries.mk_one_pow_eq_mk_choose_add, PowerSeries.coeff_mk, add_comm]
  have hchoose : Nat.choose 4 2 = 6 ∧ Nat.choose 4 3 = 4 := by decide
  rw [← Polynomial.coeff_coe, ← combs_mul_integrators, hexpand]
  simp only [map_add, map_sub, PowerSeries.coeff_C_mul, PowerSeries.coeff_X_pow_mul', cicTap, ← hcoeff]
  simp [List.range_succ, hchoose, sub_eq_add_neg, apply_ite Neg.neg, add_assoc]

theorem natDegree_cicResponse_lt : (cicResponse ℤ).natDegree < 253 := by
  have hsum : (∑ i ∈ range 64, Polynomial.X ^ i : Polynomial ℤ).natDegree ≤ 63 :=
    Polynomial.natDegree_sum_le_of_forall_le _ _ fun i hi =>
      (Polynomial.natDegree_X_pow_le i).trans (by have := mem_range.mp hi; omega)
  exact Nat.lt_succ_of_le (Polynomial.natDegree_pow_le_of_le 4 hsum)

theorem cicTap_eq_zero {k : Nat} (h : 253 ≤ k) : cicTap k = 0 := by
  rw [cicTap_eq_coeff]
  exact Polynomial.coeff_eq_zero_of_natDegree_lt (natDegree_cicResponse_lt.trans_le h)

/-- The response has natural coefficients, so no tap is negative. -/
theorem cicTap_nonneg (k : Nat) : 0 ≤ cicTap k := by
  have hmap : cicResponse ℤ = (cicResponse ℕ).map (Nat.castRingHom ℤ) := by
    simp [cicResponse, Polynomial.map_sum]
  rw [cicTap_eq_coeff, hmap, Polynomial.coeff_map]
  exact Int.natCast_nonneg _

/-- The DC gain (R117): the response at X = 1 is 64^4. -/
theorem sum_cicTap : ∑ k ∈ range 253, cicTap k = 2 ^ 24 := by
  calc ∑ k ∈ range 253, cicTap k = (cicResponse ℤ).eval 1 := by
        simp [Polynomial.eval_eq_sum_range' natDegree_cicResponse_lt, cicTap_eq_coeff]
    _ = 2 ^ 24 := by simp [cicResponse, Polynomial.eval_finsetSum]

/-! ## The series that the registers hold -/

/-- Input after `m` integrators: at coefficient `n`, what an integrator holds after `n` periods. -/
noncomputable def integrated (D : PowerSeries ℤ) (m : Nat) : PowerSeries ℤ :=
  integratorSeries ^ m * (PowerSeries.X * D)

theorem coeff_integrated_zero (D : PowerSeries ℤ) (m : Nat) : PowerSeries.coeff 0 (integrated D m) = 0 := by
  simp [integrated]

theorem coeff_integrated_no_stage (D : PowerSeries ℤ) (n : Nat) :
    PowerSeries.coeff (n + 1) (integrated D 0) = PowerSeries.coeff n D := by
  simp [integrated, PowerSeries.coeff_succ_X_mul]

/-- An integrator adds its input to what it held. -/
theorem coeff_integrated_succ (D : PowerSeries ℤ) (m n : Nat) :
    PowerSeries.coeff (n + 1) (integrated D (m + 1)) =
      PowerSeries.coeff n (integrated D (m + 1)) + PowerSeries.coeff (n + 1) (integrated D m) := by
  have hseries : integrated D (m + 1) = PowerSeries.X * integrated D (m + 1) + integrated D m := by
    unfold integrated
    linear_combination integratorSeries ^ m * (PowerSeries.X * D) * integratorSeries_mul_one_sub
  conv_lhs => rw [hseries]
  rw [map_add, PowerSeries.coeff_succ_X_mul]

/-- Input after the four integrators and `j` combs. -/
noncomputable def combed (D : PowerSeries ℤ) (j : Nat) : PowerSeries ℤ :=
  (1 - PowerSeries.X ^ 64) ^ j * integrated D 4

theorem coeff_combed_zero (D : PowerSeries ℤ) (j : Nat) : PowerSeries.coeff 0 (combed D j) = 0 := by
  simp [combed, integrated]

/-- A comb subtracts its input of 64 periods before. -/
theorem coeff_combed_succ (D : PowerSeries ℤ) (j n : Nat) :
    PowerSeries.coeff (n + 64) (combed D (j + 1)) =
      PowerSeries.coeff (n + 64) (combed D j) - PowerSeries.coeff n (combed D j) := by
  have hseries : combed D (j + 1) = combed D j - PowerSeries.X ^ 64 * combed D j := by
    unfold combed
    ring
  rw [hseries, map_sub, PowerSeries.coeff_X_pow_mul]

/-- The comb result is the convolution of the taps with the input. -/
theorem coeff_combed_four (D : PowerSeries ℤ) (n : Nat) :
    PowerSeries.coeff (n + 1) (combed D 4) = ∑ k ∈ range (n + 1), cicTap k * PowerSeries.coeff (n - k) D := by
  have hseries : combed D 4 = PowerSeries.X * ((cicResponse ℤ : PowerSeries ℤ) * D) := by
    rw [← combs_mul_integrators, combed, integrated]
    ring
  rw [hseries, PowerSeries.coeff_succ_X_mul, PowerSeries.coeff_mul,
    Nat.sum_antidiagonal_eq_sum_range_succ fun k l =>
      PowerSeries.coeff k (cicResponse ℤ : PowerSeries ℤ) * PowerSeries.coeff l D]
  simp only [Polynomial.coeff_coe, cicTap_eq_coeff]

/-! ## The registers follow the series modulo 2^28 (R116) -/

/-- What a register of 28 bits holds of the coefficient `n` of a series. -/
noncomputable def held (S : PowerSeries ℤ) (n : Nat) : BitVec 28 := ((PowerSeries.coeff n S : ℤ) : BitVec 28)

theorem held_integrated_succ (D : PowerSeries ℤ) (m n : Nat) :
    held (integrated D (m + 1)) (n + 1) = held (integrated D (m + 1)) n + held (integrated D m) (n + 1) := by
  rw [held, coeff_integrated_succ, Int.cast_add]; rfl

theorem held_combed_succ (D : PowerSeries ℤ) (j n : Nat) :
    held (combed D (j + 1)) (n + 64) = held (combed D j) (n + 64) - held (combed D j) n := by
  rw [held, coeff_combed_succ, Int.cast_sub]; rfl

/-- After `n` periods with the input `D`, the four integrators hold their series modulo 2^28. -/
structure IntegratorsHold (D : PowerSeries ℤ) (n : Nat) (c : Cic) : Prop where
  i1 : c.i1 = held (integrated D 1) n
  i2 : c.i2 = held (integrated D 2) n
  i3 : c.i3 = held (integrated D 3) n
  i4 : c.i4 = held (integrated D 4) n

/-- The combs hold their inputs of period `n` modulo 2^28. -/
structure CombsHold (D : PowerSeries ℤ) (n : Nat) (c : Cic) : Prop where
  c1 : c.c1 = held (combed D 0) n
  c2 : c.c2 = held (combed D 1) n
  c3 : c.c3 = held (combed D 2) n
  c4 : c.c4 = held (combed D 3) n

theorem integratorsHold_reset (D : PowerSeries ℤ) : IntegratorsHold D 0 {} := by
  constructor <;> simp [held, coeff_integrated_zero]

theorem combsHold_reset (D : PowerSeries ℤ) : CombsHold D 0 {} := by
  constructor <;> simp [held, coeff_combed_zero]

/-- The demodulated input of one period: +1 where the bit is the sign, else -1 (R113, R115). -/
def demodulated (plus : Bool) : ℤ := if plus then 1 else -1

theorem cicPeriod_integratorsHold {D : PowerSeries ℤ} {n : Nat} {c : Cic} {plus : Bool} (hc : IntegratorsHold D n c)
    (hD : PowerSeries.coeff n D = demodulated plus) : IntegratorsHold D (n + 1) (cicPeriod c plus) := by
  have h1 : (cicPeriod c plus).i1 = held (integrated D 1) (n + 1) := by
    rw [held_integrated_succ, ← hc.i1, held, coeff_integrated_no_stage, hD]
    cases plus <;> simp [cicPeriod, demodulated, sub_eq_add_neg]
  have h2 : (cicPeriod c plus).i2 = held (integrated D 2) (n + 1) := by
    rw [held_integrated_succ, ← hc.i2, ← h1]; rfl
  have h3 : (cicPeriod c plus).i3 = held (integrated D 3) (n + 1) := by
    rw [held_integrated_succ, ← hc.i3, ← h2]; rfl
  have h4 : (cicPeriod c plus).i4 = held (integrated D 4) (n + 1) := by
    rw [held_integrated_succ, ← hc.i4, ← h3]; rfl
  exact ⟨h1, h2, h3, h4⟩

/-- Periods move the integrators only. -/
theorem cicPeriod_combsHold {D : PowerSeries ℤ} {n : Nat} {c : Cic} {plus : Bool} (hc : CombsHold D n c) :
    CombsHold D n (cicPeriod c plus) :=
  ⟨hc.c1, hc.c2, hc.c3, hc.c4⟩

/-- `D` holds the demodulated block `b` from period `n` on. -/
def BlockAt (D : PowerSeries ℤ) (n : Nat) (b : Bool × BitVec 64) : Prop :=
  ∀ i < 64, PowerSeries.coeff (n + i) D = demodulated (bitAt b.2 i == b.1)

/-- A block carries the integrators 64 periods on and leaves the combs. -/
theorem cicRun_holds {D : PowerSeries ℤ} {n : Nat} {c : Cic} {b : Bool × BitVec 64} (hi : IntegratorsHold D n c)
    (hc : CombsHold D n c) (hD : BlockAt D n b) :
    IntegratorsHold D (n + 64) (cicRun c b.1 b.2) ∧ CombsHold D n (cicRun c b.1 b.2) := by
  have hperiods (m : Nat) (hm : m ≤ 64) :
      let r := (List.range m).foldl (fun c i => cicPeriod c (bitAt b.2 i == b.1)) c
      IntegratorsHold D (n + m) r ∧ CombsHold D n r := by
    induction m with
    | zero => exact ⟨hi, hc⟩
    | succ m ih =>
      obtain ⟨ihi, ihc⟩ := ih (by omega)
      simp only [List.range_succ, List.foldl_append, List.foldl_cons, List.foldl_nil]
      exact ⟨cicPeriod_integratorsHold ihi (hD m (by omega)), cicPeriod_combsHold ihc⟩
  exact hperiods 64 le_rfl

section Combs
variable {D : PowerSeries ℤ} {n : Nat} {c : Cic} (hi : IntegratorsHold D (n + 64) c) (hc : CombsHold D n c)
include hi hc

theorem cicComb_combsHold : CombsHold D (n + 64) (cicComb c).2 := by
  have h1 : (cicComb c).2.c1 = held (combed D 0) (n + 64) := by
    simpa [combed, cicComb] using hi.i4
  have h2 : (cicComb c).2.c2 = held (combed D 1) (n + 64) := by
    rw [held_combed_succ, ← hc.c1, ← h1]; rfl
  have h3 : (cicComb c).2.c3 = held (combed D 2) (n + 64) := by
    rw [held_combed_succ, ← hc.c2, ← h2]; rfl
  have h4 : (cicComb c).2.c4 = held (combed D 3) (n + 64) := by
    rw [held_combed_succ, ← hc.c3, ← h3]; rfl
  exact ⟨h1, h2, h3, h4⟩

theorem cicComb_result : (cicComb c).1 = (held (combed D 4) (n + 64)).toInt := by
  rw [held_combed_succ, ← hc.c4, ← (cicComb_combsHold hi hc).c4]; rfl

end Combs

/-- The combs leave the integrators. -/
theorem cicComb_integratorsHold {D : PowerSeries ℤ} {n : Nat} {c : Cic} (hi : IntegratorsHold D n c) :
    IntegratorsHold D n (cicComb c).2 :=
  ⟨hi.i1, hi.i2, hi.i3, hi.i4⟩

/-- Blocks of 64 periods, each followed by its comb instant. -/
def cicBlocks (blocks : List (Bool × BitVec 64)) (c : Cic) : Cic :=
  blocks.foldl (fun c b => (cicComb (cicRun c b.1 b.2)).2) c

theorem cicBlocks_holds {D : PowerSeries ℤ} (blocks : List (Bool × BitVec 64)) {n : Nat} {c : Cic}
    (hi : IntegratorsHold D n c) (hc : CombsHold D n c)
    (hD : ∀ j b, blocks[j]? = some b → BlockAt D (n + 64 * j) b) :
    IntegratorsHold D (n + 64 * blocks.length) (cicBlocks blocks c) ∧
      CombsHold D (n + 64 * blocks.length) (cicBlocks blocks c) := by
  induction blocks generalizing n c with
  | nil => exact ⟨hi, hc⟩
  | cons b bs ih =>
    obtain ⟨hri, hrc⟩ := cicRun_holds hi hc (hD 0 b rfl)
    have hnext := ih (cicComb_integratorsHold hri) (cicComb_combsHold hri hrc) fun j b' hj => by
      have hblock := hD (j + 1) b' hj
      rwa [show n + 64 * (j + 1) = n + 64 + 64 * j by ring] at hblock
    rwa [show n + 64 + 64 * bs.length = n + 64 * (b :: bs).length by rw [List.length_cons]; ring] at hnext

/-! ## The comb result is exact (R118) -/

/-- The convolution of the taps with an input of at most 1 lies within the DC gain. -/
theorem abs_coeff_combed_four_le {D : PowerSeries ℤ} (hD : ∀ n, |PowerSeries.coeff n D| ≤ 1) (n : Nat) :
    |PowerSeries.coeff (n + 1) (combed D 4)| ≤ 2 ^ 24 := by
  have hgain : ∑ k ∈ range (n + 1), cicTap k ≤ ∑ k ∈ range (max (n + 1) 253), cicTap k :=
    sum_le_sum_of_subset_of_nonneg (range_mono (le_max_left _ _)) fun k _ _ => cicTap_nonneg k
  have htail : ∑ k ∈ range 253, cicTap k = ∑ k ∈ range (max (n + 1) 253), cicTap k :=
    sum_subset (range_mono (le_max_right _ _)) fun k _ hk => cicTap_eq_zero (by simpa using hk)
  calc |PowerSeries.coeff (n + 1) (combed D 4)|
      ≤ ∑ k ∈ range (n + 1), |cicTap k * PowerSeries.coeff (n - k) D| := by
        rw [coeff_combed_four]
        exact abs_sum_le_sum_abs _ _
    _ ≤ ∑ k ∈ range (n + 1), cicTap k := sum_le_sum fun k _ => by
        rw [abs_mul, abs_of_nonneg (cicTap_nonneg k)]
        exact mul_le_of_le_one_right (cicTap_nonneg k) (hD _)
    _ ≤ 2 ^ 24 := by rw [← sum_cicTap, htail]; exact hgain

theorem toInt_intCast_of_abs_le {x : ℤ} (hx : |x| ≤ 2 ^ 24) : (x : BitVec 28).toInt = x := by
  obtain ⟨hlow, hhigh⟩ := abs_le.mp hx
  rw [BitVec.toInt_intCast]
  exact Int.bmod_eq_of_le_mul_two (by norm_num; omega) (by norm_num; omega)

/-! ## The statement -/

/-- The demodulated input of a list of blocks, 0 after them. -/
def demodInput (all : List (Bool × BitVec 64)) (n : Nat) : ℤ :=
  match all[n / 64]? with
  | some b => if bitAt b.2 (n % 64) = b.1 then 1 else -1
  | none => 0

theorem demodInput_blockAt {all : List (Bool × BitVec 64)} {j : Nat} {b : Bool × BitVec 64} (h : all[j]? = some b) :
    BlockAt (PowerSeries.mk (demodInput all)) (64 * j) b := by
  intro i hi
  have hdiv : (64 * j + i) / 64 = j := by omega
  have hmod : (64 * j + i) % 64 = i := by omega
  simp [demodInput, hdiv, hmod, h, demodulated]

theorem abs_demodInput_le (all : List (Bool × BitVec 64)) (n : Nat) : |demodInput all n| ≤ 1 := by
  unfold demodInput
  split
  · split <;> simp
  · simp

/-- The CIC output after `blocks` and `last` is the convolution, over all the periods since the registers were cleared. -/
theorem cicComb_eq_convolution (blocks : List (Bool × BitVec 64)) (last : Bool × BitVec 64) :
    (cicComb (cicRun (cicBlocks blocks {}) last.1 last.2)).1 =
      ∑ k ∈ range (64 * (blocks ++ [last]).length),
        cicTap k * demodInput (blocks ++ [last]) (64 * (blocks ++ [last]).length - 1 - k) := by
  set all := blocks ++ [last] with hall
  set D := PowerSeries.mk (demodInput all) with hD
  have hfirst (j : Nat) (b : Bool × BitVec 64) (hj : blocks[j]? = some b) : BlockAt D (0 + 64 * j) b := by
    rw [zero_add]
    exact demodInput_blockAt (by rw [hall, List.getElem?_append_left (List.getElem?_eq_some_iff.mp hj).1, hj])
  have hlast : BlockAt D (0 + 64 * blocks.length) last := by
    rw [zero_add]
    exact demodInput_blockAt (by simp [hall])
  obtain ⟨hi, hc⟩ := cicBlocks_holds blocks (integratorsHold_reset D) (combsHold_reset D) hfirst
  obtain ⟨hri, hrc⟩ := cicRun_holds hi hc hlast
  have ht : 64 * all.length = 64 * blocks.length + 63 + 1 := by simp [hall]; ring
  rw [cicComb_result hri hrc, held, ht, show 0 + 64 * blocks.length + 64 = 64 * blocks.length + 63 + 1 by ring,
    toInt_intCast_of_abs_le (abs_coeff_combed_four_le (by simpa [hD] using abs_demodInput_le all) _), coeff_combed_four]
  simp [hD]

/-- Of a convolution over `t` periods only the 253 taps of the response count. -/
theorem sum_range_eq_sum_taps (t : Nat) (f : Nat → ℤ) :
    ∑ k ∈ range t, cicTap k * f k = ∑ k ∈ range 253, if k < t then cicTap k * f k else 0 := by
  rw [← sum_filter]
  refine (sum_subset (fun k hk => mem_range.mpr (mem_filter.mp hk).2) fun k hk hnot => ?_).symm
  have hlate : 253 ≤ k := by simpa [mem_range.mp hk] using hnot
  rw [cicTap_eq_zero hlate, zero_mul]

/-- Settles O26: the registers follow the generating series of the integrators and combs modulo 2^28, whose product is the
fourfold 64-sum, and the result lies within 2^24 and is read back exactly. -/
theorem cicIsFourfoldMovingSum : Obligations.CicIsFourfoldMovingSum := by
  unfold Obligations.CicIsFourfoldMovingSum
  refine ⟨fun blocks last => ?_, ?_, fun k => cicTap_eq_zero⟩
  · exact (cicComb_eq_convolution blocks last).trans (sum_range_eq_sum_taps _ _)
  · exact sum_cicTap

end Sys2Proof.Machine
end

/-! Proof of a keeper's trap entry and double fault (08 R348, R349).
What raises an exception leaves every field of the keeper but its store buffer: a fetch logs and asks for a refetch, a load or store
drains first. The handler is then entered with the pc of the instruction itself. -/
section
namespace Sys2Proof.Machine

/-! ## Frames: what leaves the keeper but for its store buffer -/

/-- Keeper `k` of `u` is that of `s` but for the store buffer. -/
def sameButBuffer (s u : State) (k : Nat) : Prop := u.keeper k = { s.keeper k with sbuf := (u.keeper k).sbuf }

theorem sameButBuffer_of_keepers {s u : State} (h : u.keepers = s.keepers) (k : Nat) : sameButBuffer s u k := by
  simp [sameButBuffer, State.keeper, h]

theorem sameButBuffer_trans {s t u : State} {k : Nat} (h : sameButBuffer s t k) (g : sameButBuffer t u k) : sameButBuffer s u k := by
  unfold sameButBuffer at *
  rw [g, h]

theorem sameButBuffer_drainAll (s : State) (k : Nat) : sameButBuffer s (drainAll s k) k := by
  simp [sameButBuffer, keeper_drainAll]

theorem askRefetch_keepers (s : State) (a : Nat) : (askRefetch s a).keepers = s.keepers := by
  simp only [askRefetch]
  split <;> rfl

theorem elogHit_keepers (s : State) (page w : Nat) : (elogHit s page w).keepers = s.keepers := by
  simp only [elogHit]
  split
  · rfl
  · split <;> rfl

theorem readStore_keepers (s : State) (w : Nat) : (readStore s w).2.keepers = s.keepers := by
  simp only [readStore]
  split
  · exact elogHit_keepers s _ _
  · rfl

theorem arbServe_keepers (s : State) (gi p n : Nat) : (arbServe s gi p n).keepers = s.keepers := by
  simp only [arbServe]
  split <;> rfl

/-- A load through the window that fails has read store words, or its port is blocked. -/
theorem winLoad_none {s u : State} {k o n : Nat} (h : winLoad s k o n = (none, u)) : u.keepers = s.keepers := by
  simp only [winLoad] at h
  split at h
  · cases h
  split at h
  · cases h; rfl
  split at h
  · cases h
    exact foldl_keeps (fun r : Bool × State => r.2.keepers = s.keepers) _ (fun r _ hr => (readStore_keepers r.2 _).trans hr) _ _
      (arbServe_keepers s _ _ _)
  · cases h

theorem wramLoad_none {s u : State} {k o n : Nat} (h : wramLoad s k o n = (none, u)) : u.keepers = s.keepers := by
  simp only [wramLoad] at h
  split at h <;> cases h
  rfl

/-! ## Loads and stores that fault -/

theorem kLoad_fault {s u : State} {k a n c v : Nat} (h : kLoad s k a n = .fault c v u) : sameButBuffer s u k := by
  simp only [kLoad] at h
  split at h
  · cases h; exact sameButBuffer_of_keepers rfl k
  split at h
  · split at h <;> cases h
    exact sameButBuffer_of_keepers (askRefetch_keepers s a) k
  split at h
  · split at h <;> cases h
    next hw => exact sameButBuffer_of_keepers (wramLoad_none hw) k
  split at h
  · split at h <;> cases h
    next hw => exact sameButBuffer_trans (sameButBuffer_drainAll s k) (sameButBuffer_of_keepers (winLoad_none hw) k)
  split at h
  · split at h <;> cases h
  · cases h; exact sameButBuffer_of_keepers rfl k

theorem kStore_fault {s u : State} {k a v n c t : Nat} (h : kStore s k a v n = .fault c t u) : sameButBuffer s u k := by
  simp only [kStore] at h
  split at h
  · cases h; exact sameButBuffer_of_keepers rfl k
  split at h
  · cases h
  split at h
  · split at h
    · cases h
    · split at h <;> cases h
      exact sameButBuffer_drainAll s k
  split at h
  · cases h
  · cases h; exact sameButBuffer_of_keepers rfl k

theorem doLoad_trap {s u : State} {k rd a n c v : Nat} {sg : Bool} {pc : W32} (h : doLoad s k rd a n sg pc = .trap c v u) :
    sameButBuffer s u k := by
  simp only [doLoad] at h
  split at h <;> cases h
  next hl => exact kLoad_fault hl

theorem doStore_trap {s u : State} {k a x n c v : Nat} {pc : W32} (h : doStore s k a x n pc = .trap c v u) : sameButBuffer s u k := by
  simp only [doStore] at h
  split at h <;> cases h
  next hs => exact kStore_fault hs

/-! ## Instructions that raise an exception -/

theorem illegal_trap {s u : State} {c v : Nat} (h : illegal s = .trap c v u) : u = s := by
  cases h; rfl

theorem doCsr_trap {s u : State} {k n f3 rd z c v : Nat} {src pc : W32} (h : doCsr s k n f3 rd z src pc = .trap c v u) : u = s := by
  simp only [doCsr] at h
  split at h
  · exact illegal_trap h
  · split at h
    · exact illegal_trap h
    · cases h

theorem rvSystem_trap {s u : State} {k w c v : Nat} {pc : W32} (h : rvSystem s k w pc = .trap c v u) : u = s := by
  simp only [rvSystem] at h
  split at h
  · split at h <;> cases h <;> rfl
  · split at h
    · exact illegal_trap h
    · exact doCsr_trap h

/-- Of the instructions that raise an exception only loads and stores change the keeper, and those its buffer alone. -/
theorem rvExec_trap {s u : State} {k w len c v : Nat} {pc : W32} (h : rvExec s k w len pc = .trap c v u) : sameButBuffer s u k := by
  have same (e : u = s) : sameButBuffer s u k := e ▸ sameButBuffer_of_keepers rfl k
  unfold rvExec at h
  dsimp only at h
  -- the alternatives in the order of `rvExec`: LUI, AUIPC and JAL complete; loads are `h_6`, stores `h_7`, SYSTEM `h_11`
  split at h
  case h_1 | h_2 | h_3 => cases h
  case h_4 | h_5 | h_10 =>
    split at h
    · cases h
    · exact same (illegal_trap h)
  case h_6 =>
    split at h
    · exact doLoad_trap h
    · exact same (illegal_trap h)
  case h_7 =>
    split at h
    · exact doStore_trap h
    · exact same (illegal_trap h)
  case h_8 =>
    split at h
    · exact same (illegal_trap h)
    · cases h
  case h_9 =>
    split at h
    · cases h
    · split at h
      · cases h
      · exact same (illegal_trap h)
  case h_11 => exact same (rvSystem_trap h)
  case h_12 => exact same (illegal_trap h)

/-! ## Fetches -/

/-- A parcel is fetched, taking at most a free value, or the fetch faults and leaves the keepers alone. -/
theorem fetchParcel_cases (s : State) (k a : Nat) :
    (∃ v f, fetchParcel s k a = .ok v { s with free := f }) ∨
    ∃ c t u, fetchParcel s k a = .fault c t u ∧ u.keepers = s.keepers := by
  simp only [fetchParcel]
  split
  · split
    · exact .inr ⟨_, _, _, rfl, askRefetch_keepers s a⟩
    · exact .inl ⟨_, s.free, rfl⟩
  split
  · split
    · exact .inr ⟨_, _, _, rfl, rfl⟩
    split
    · exact .inl ⟨_, s.free + 1, rfl⟩
    · exact .inl ⟨_, s.free, rfl⟩
  · exact .inr ⟨_, _, _, rfl, rfl⟩

/-- So it is for an instruction of one or two parcels. -/
theorem fetchInstr_cases (s : State) (k : Nat) :
    (∃ w n f, fetchInstr s k = .word w n { s with free := f }) ∨
    ∃ c t u, fetchInstr s k = .fault c t u ∧ u.keepers = s.keepers := by
  simp only [fetchInstr]
  obtain ⟨lo, f, hlo⟩ | ⟨c, t, u, hlo, hu⟩ := fetchParcel_cases s k (s.keeper k).pc.toNat <;> rw [hlo]
  · dsimp only
    split
    · exact .inl ⟨_, _, f, rfl⟩
    obtain ⟨hi, g, hhi⟩ | ⟨c, t, u, hhi, hu⟩ :=
      fetchParcel_cases { s with free := f } k (((s.keeper k).pc.toNat + 2) % 2 ^ 32) <;> rw [hhi]
    · exact .inl ⟨_, _, g, rfl⟩
    · exact .inr ⟨c, t, u, rfl, hu⟩
  · exact .inr ⟨c, t, u, rfl, hu⟩

theorem fetchInstr_word {s u : State} {k n : Nat} {w : Option Nat} (h : fetchInstr s k = .word w n u) :
    ∃ f, u = { s with free := f } := by
  obtain ⟨w', n', f, hw⟩ | ⟨c, t, u', hf, -⟩ := fetchInstr_cases s k
  · cases hw.symm.trans h; exact ⟨f, rfl⟩
  · cases hf.symm.trans h

theorem fetchInstr_word_keepers {s u : State} {k n : Nat} {w : Option Nat} (h : fetchInstr s k = .word w n u) :
    u.keepers = s.keepers := by
  obtain ⟨f, hf⟩ := fetchInstr_word h
  rw [hf]

theorem fetchInstr_fault {s u : State} {k c v : Nat} (h : fetchInstr s k = .fault c v u) : u.keepers = s.keepers := by
  obtain ⟨w', n', f, hw⟩ | ⟨c', t, u', hf, hu⟩ := fetchInstr_cases s k
  · cases hw.symm.trans h
  · cases hf.symm.trans h; exact hu

/-- What raises an exception leaves the keeper as it was but for its buffer: its pc is still that of the instruction. -/
theorem raises_sameButBuffer {s u : State} {k c v : Nat} (h : raises s k c v u) : sameButBuffer s u k := by
  obtain hf | ⟨-, -, n, hw⟩ | ⟨w, n, x, hw, ht⟩ := h
  · exact sameButBuffer_of_keepers (fetchInstr_fault hf) k
  · exact sameButBuffer_of_keepers (fetchInstr_word_keepers hw) k
  · exact sameButBuffer_trans (sameButBuffer_of_keepers (fetchInstr_word_keepers hw) k) (rvExec_trap ht)

theorem raises_pc {s u : State} {k c v : Nat} (h : raises s k c v u) : (u.keeper k).pc = (s.keeper k).pc := by
  rw [raises_sameButBuffer h]

/-! ## One step of a keeper that acts -/

/-- A keeper acts if it runs and is stalled neither in WFI nor in a claim read (08 R373). -/
theorem keeperActs_iff (s : State) (k : Nat) : keeperActs s k = true ↔ keeperRuns s k = true ∧ (s.keeper k).wfi = false ∧
    (List.range 4).any (fun b => (s.bank b).stalled == some (keeperFin k)) = false := by
  simp [keeperActs, and_assoc]

theorem keeperRuns_iff (s : State) (k : Nat) : keeperRuns s k = true ↔ k < nKeepers s ∧ keepersClocked s = true ∧
    s.rst.pending = false ∧ s.pwr.entering = false ∧ (s.keeper k).run = true ∧ (s.keeper k).dbgHalt = false ∧
    keeperDoomed s k = false := by
  simp [keeperRuns, and_assoc]

theorem keeperStep_acts {s : State} {k : Nat} (h : keeperActs s k = true) (is : Nat → Bool) : keeperStep s k is = keeperExec s k is := by
  obtain ⟨hr, hw, -⟩ := (keeperActs_iff s k).mp h
  have hl : wfiLeave s k = s := by simp [wfiLeave, hw]
  simp [keeperStep, hr, hl, h]

/-- An executed instruction that completes retires. -/
theorem keeperExec_next {s u t : State} {k w n : Nat} {is : Nat → Bool} {nx : W32} {cnt : Bool}
    (hf : fetchInstr s k = .word (some w) n u) (hi : is w = true) (hx : rvExec u k w n (s.keeper k).pc = .next t nx cnt) :
    keeperExec s k is = pwrCheck (retire t k nx cnt) := by
  simp [keeperExec, hf, hi, hx]

/-- An exception is taken, however it is raised. -/
theorem keeperExec_raises {s u : State} {k c v : Nat} (h : raises s k c v u) :
    keeperExec s k (fun _ => true) = takeException u k c v := by
  obtain hf | ⟨rfl, rfl, n, hw⟩ | ⟨w, n, x, hw, ht⟩ := h
  · simp [keeperExec, hf]
  · simp [keeperExec, hw]
  · simp [keeperExec, hw, ht]

/-- While a present keeper runs and does not wait, the hub is not ready to sleep (13 R546). -/
theorem pwrCheck_setKeeper_busy {s : State} {k : Nat} {kp : Keeper} (hk : k < nKeepers s) (hr : kp.run = true) (hw : kp.wfi = false) :
    pwrCheck (s.setKeeper k kp) = s.setKeeper k kp := by
  have hbusy : keeperReady (s.setKeeper k kp) k = false := by simp [keeperReady, hr, hw]
  have hready : allReady (s.setKeeper k kp) = false := by
    rw [allReady, List.all_eq_false]
    exact ⟨k, List.mem_range.mpr hk, by simp [hbusy]⟩
  simp [pwrCheck, hready]

/-! ## Trap entry, double fault and return -/

@[simp] theorem State.setKeeper_setKeeper (s : State) (k : Nat) (v w : Keeper) : (s.setKeeper k v).setKeeper k w = s.setKeeper k w := by
  simp only [State.setKeeper, tput_tput]

theorem exec_keeperInstruction_raises {s u : State} {k : Fin 4} {c v : Nat} (ha : keeperActs s k = true) (h : raises s k c v u) :
    exec (.keeperInstruction k) s = .next (takeException u k c v) :=
  congrArg Host.Outcome.next ((keeperStep_acts ha _).trans (keeperExec_raises h))

/-- A double fault sets RST_DBL and causes the keeper's reset, K0's by the recovery sequencer (08 R349, R350). -/
theorem takeException_double_eq {u : State} {k : Fin 4} (h : (u.keeper k).inTrap = true) (c v : Nat) :
    takeException u k c v =
      if k = 0 then { u.setKeeper k { u.keeper k with rstDbl := true } with integ := { u.integ with seqDue := true } }
      else u.setKeeper k { u.keeper k with rstDbl := true, resetDue := true } := by
  rw [takeException_double h]
  by_cases hk : k = 0
  · simp [causeReset, hk]
  · have hk' : (k : Nat) ≠ 0 := fun e => hk (Fin.ext e)
    simp [causeReset, hk, hk']

theorem rvExec_ecall (s : State) (k n : Nat) (pc : W32) : rvExec s k 0x00000073 n pc = .trap 11 0 s := rfl
theorem rvExec_ebreak (s : State) (k n : Nat) (pc : W32) : rvExec s k 0x00100073 n pc = .trap 3 0 s := rfl
theorem rvExec_mret (s : State) (k n : Nat) (pc : W32) :
    rvExec s k 0x30200073 n pc = .next (trapReturn s k) (s.keeper k).mepc true := rfl

/-- Atomic and floating-point instructions are illegal (08 R339). -/
theorem rvExec_amo_or_fp {s : State} {k w n : Nat} {pc : W32} (h : fld w 0 7 = 0x2F ∨ fld w 0 7 = 0x53) :
    rvExec s k w n pc = .trap 2 0 s := by
  rcases h with h | h <;> simp [rvExec, h, illegal]

theorem rvExec_raising {s : State} {k w n c : Nat} {pc : W32}
    (h : w = 0x00000073 ∧ c = 11 ∨ w = 0x00100073 ∧ c = 3 ∨ (fld w 0 7 = 0x2F ∨ fld w 0 7 = 0x53) ∧ c = 2) :
    rvExec s k w n pc = .trap c 0 s := by
  obtain ⟨rfl, rfl⟩ | ⟨rfl, rfl⟩ | ⟨h, rfl⟩ := h
  · exact rvExec_ecall s k n pc
  · exact rvExec_ebreak s k n pc
  · exact rvExec_amo_or_fp h

/-- An MRET as it retires: the interrupt enables are those saved, and IN_TRAP is 0. -/
theorem retire_trapReturn (u : State) (k : Nat) : retire (trapReturn u k) k (u.keeper k).mepc true = u.setKeeper k
    { u.keeper k with pc := (u.keeper k).mepc, mstatusMie := (u.keeper k).mstatusMpie, mstatusMpie := true, inTrap := false,
                      minstret := if (u.keeper k).inhibitIr then (u.keeper k).minstret else (u.keeper k).minstret + 1 } := by
  cases h : (u.keeper k).inhibitIr <;> simp [retire, trapReturn, h]

theorem exec_keeperMret {s u : State} {k : Fin 4} {n : Nat} (ha : keeperActs s k = true)
    (hf : fetchInstr s k = .word (some 0x30200073) n u) :
    exec (.keeperMret k) s = .next (u.setKeeper k
      { u.keeper k with pc := (s.keeper k).mepc, mstatusMie := (s.keeper k).mstatusMpie, mstatusMpie := true, inTrap := false,
                        minstret := if (s.keeper k).inhibitIr then (s.keeper k).minstret else (s.keeper k).minstret + 1 }) := by
  obtain ⟨hruns, hwfi, -⟩ := (keeperActs_iff s k).mp ha
  obtain ⟨hk, -, -, -, hrun, -, -⟩ := (keeperRuns_iff s k).mp hruns
  obtain ⟨f, hu⟩ := fetchInstr_word hf
  have hkeep : u.keeper k = s.keeper k := by rw [hu]; rfl
  have hn : nKeepers u = nKeepers s := by rw [hu]; rfl
  rw [← hkeep] at hrun hwfi ⊢
  have hstep : keeperStep s k isMret = retire (trapReturn u k) k (u.keeper k).mepc true := by
    rw [keeperStep_acts ha, keeperExec_next hf rfl (rvExec_mret u k n _), retire_trapReturn]
    exact pwrCheck_setKeeper_busy (hn ▸ hk) hrun hwfi
  exact congrArg Host.Outcome.next (hstep.trans (retire_trapReturn u k))

/-! ## KP_CTRL.TRAP_DONE -/

/-- A keeper's write of 1 to TRAP_DONE clears IN_TRAP (08 R348, R384). -/
theorem regWrite_trapDone (s : State) (k : Fin 4) :
    regWrite s (.keeper k) (regAddr 13 0x004) 1 = s.setKeeper k { s.keeper k with inTrap := false } := by
  have hlink : (k.val == 4) = false := beq_false_of_ne (by omega)
  have hsafe : safeIgnores s 13 = false := by simp [safeIgnores]
  have hkept : reqAddrKept s 13 4 = false := by simp [reqAddrKept]
  have habs : unitAbsent s 13 4 = false := rfl
  have hnow : unitWriteNow s (.keeper k) 13 4 1 = s.setKeeper k { s.keeper k with inTrap := false } := by
    simp [unitWriteNow, safeMask, w1cKept, w1cReg, hubUpdated, unitWrite, kpWrite, reqKeeper]
  simp [regWrite, regAddr, regBase, regBlock, regOff, regValid, reqKeeper, hlink, hsafe, hkept, habs, hnow, unitWide, kpWide]

theorem exec_trapDone_acts {s : State} {k : Fin 4} (ha : keeperActs s k = true) :
    exec (.trapDone k) s = .next ((drainAll s k).setKeeper k { (drainAll s k).keeper k with inTrap := false }) :=
  congrArg Host.Outcome.next ((access_acts (r := .keeper k) ha _).trans (regWrite_trapDone _ k))

/-! ## The statement -/

/-- Settles O13: the exception is taken in the state that it leaves, whose pc is the instruction's. -/
theorem keeperTrapEntryAndDoubleFault : Obligations.KeeperTrapEntryAndDoubleFault := by
  unfold Obligations.KeeperTrapEntryAndDoubleFault
  intro k s ha
  refine ⟨fun u c v h => ⟨fun hfirst => ?_, fun htrap => ?_⟩, fun u w n c hf hw => ?_, fun u n hf => exec_keeperMret ha hf,
    exec_trapDone_acts ha⟩
  · rw [exec_keeperInstruction_raises ha h, takeException_first hfirst, raises_pc h]
  · rw [exec_keeperInstruction_raises ha h, takeException_double_eq htrap]
  · exact .inr (.inr ⟨w, n, u, hf, rvExec_raising hw⟩)

end Sys2Proof.Machine
end
